-- ==== Sys2Proof/Word.lean ====
section
/-! DEFINITION. The plain value types of the CK8: bytes, bay numbers, registry entry numbers, debit record
numbers, swath-memory addresses, and the one way a fixed row of like things is updated. -/

namespace Sys2Proof

/-- One byte on a line, in a frame, in a page or in the swath memory. -/
abbrev Byte := BitVec 8

/-- A supply bay, 0 to 7 (00_scope, "Bays"). -/
abbrev Bay := Fin 8

/-- A supply registry entry, 0 to 47 (R103). -/
abbrev EntryIx := Fin 48

/-- A debit record, 0 to 63 (R63). -/
abbrev RecordIx := Fin 64

/-- A swath-memory or carriage-link address, 0x000000 to 0xFFFFFF; addition wraps as R41 and R58 say. -/
abbrev Addr24 := BitVec 24

/-- The eight bays in ascending order, the order in which the rules take them. -/
def allBays : List Bay := [0, 1, 2, 3, 4, 5, 6, 7]

/-- The 48 registry entries in ascending order. -/
def allEntries : List EntryIx := List.finRange 48

/-- `v` with the member at `i` replaced by `f` of it. -/
def upd {α : Type} {n : Nat} (v : Vector α n) (i : Fin n) (f : α → α) : Vector α n :=
  v.set i (f v[i])

@[simp] theorem upd_self {α : Type} {n : Nat} (v : Vector α n) (i : Fin n) (f : α → α) :
    (upd v i f)[i] = f v[i] := by
  simp [upd]

/-- `upd_self` with the index as a number, the form simp brings it to. -/
@[simp] theorem upd_self_nat {α : Type} {n : Nat} (v : Vector α n) (i : Fin n) (f : α → α) :
    (upd v i f)[(i : Nat)] = f v[(i : Nat)] := by
  simp [upd]

theorem upd_ne {α : Type} {n : Nat} (v : Vector α n) (i j : Fin n) (f : α → α) (h : j ≠ i) :
    (upd v i f)[j] = v[j] := by
  have h' : (i : Nat) ≠ (j : Nat) := fun e => h (Fin.ext e.symm)
  simp only [upd, Fin.getElem_fin]
  exact Vector.getElem_set_ne i.2 j.2 h'

/-- Every member of `v` replaced by `f` of its number and itself. -/
def updAll {α : Type} {n : Nat} (v : Vector α n) (f : Fin n → α → α) : Vector α n :=
  Vector.ofFn fun i => f i v[i]

@[simp] theorem updAll_get {α : Type} {n : Nat} (v : Vector α n) (f : Fin n → α → α) (i : Fin n) :
    (updAll v f)[i] = f i v[i] := by
  simp [updAll]

/-- `updAll_get` with the index as a number. -/
@[simp] theorem updAll_get_nat {α : Type} {n : Nat} (v : Vector α n) (f : Fin n → α → α) (i : Fin n) :
    (updAll v f)[(i : Nat)] = f i v[(i : Nat)] := by
  simp [updAll]

end Sys2Proof
end

