-- ==== Sys2Proof/Config.lean ====
section
/-! DEFINITION. What an implementation of the CK8 fixes and the manual does not print: the two keyed functions, the
random source, and the free values (constants with no body); and the manual's own numeric limits. -/

namespace Sys2Proof

/-- What a registry write that power cut off left in the array (R118). -/
inductive WriteFate where
  /-- Old content with its old check. -/
  | old
  /-- New content with its new check. -/
  | new
  /-- Anything else: a content whose check does not match. -/
  | torn
deriving DecidableEq, Repr, Inhabited

namespace Config

/-! ### Functions fixed in the part and never printed (R38), and free values (notes/assumptions/1 to 4). -/

/-- The proof function over key, serial and nonce (R38); "fixed in the part". Uninterpreted. -/
opaque proofFunction : BitVec 128 → BitVec 64 → BitVec 128 → BitVec 128

/-- The check function over key, serial, level, use count and stamp (R3, R38). Uninterpreted. -/
opaque checkFunction : BitVec 128 → BitVec 64 → BitVec 24 → BitVec 16 → BitVec 32 → BitVec 64

/-- The internal random source behind nonce bytes 4 to 15 (R38), one draw for each value of State's counter. -/
opaque randomSource : Nat → BitVec 96

/-- What a write cut off by a power loss left (R118), one value for each value of State's counter. -/
opaque cutWrite : Nat → WriteFate

/-- Whether a failed write left content whose check does not match (true) or the previous content (R116). -/
opaque failedWriteTears : Nat → Bool

/-- How many bytes of a link write in service had been stored when a restart cut it (R138). -/
opaque bytesStored : Nat → Nat

/-! ### Times, in microseconds. A timer of State holds the limit it runs towards. -/

def settleUs : Nat := 50000
def absenceUs : Nat := 2000
def replyUs : Nat := 2000
def pollUs : Nat := 1000
def storeLimitUs : Nat := 25000
def proveLimitUs : Nat := 10000
def byteUs : Nat := 1000
def overrunQuietUs : Nat := 1000
def nonceServiceUs : Nat := 50
def proofServiceUs : Nat := 400
def checkServiceUs : Nat := 300

/-! ### Counting limits -/

/-- Femtolitres in one level unit (00_scope, "Volumes and levels"). -/
def flPerLU : Nat := 1000000000
/-- The largest swath tally (R45). -/
def tallyMax : Nat := 2 ^ 48 - 1
/-- The largest carry and the largest debt (R70, R103). -/
def volumeMax : Nat := 2 ^ 56 - 1
/-- The largest overdraw (R92, R103). -/
def overdrawMax : Nat := 16777215
/-- The largest admission sequence (R105). -/
def sequenceMax : Nat := 2 ^ 32 - 1
/-- The largest written-off total (R105). -/
def writtenOffMax : Nat := 2 ^ 64 - 1
/-- The largest repeat count and the largest starvation count (R155, R75). -/
def countMax : Nat := 255

/-- The line rate at power-on, at restart and in NO_PROFILE (R155, R156). -/
def defaultRate : Nat := 115200

/-- What a swath SRAM byte that nothing has written reads as (DESIGN CHOICE, notes/assumptions/5). -/
def sramErased : Byte := 0x00#8

end Config
end Sys2Proof
end

