-- ==== Sys2Proof/Syntax.lean ====
section
/-! DEFINITION. The commands the CK8 takes: one constructor for each row of spec/opcode_table.json. -/

namespace Sys2Proof

/-- The bytes a tag put on its line as one reply, and whether every byte had a good stop bit (R9). -/
structure TagAnswer where
  bytes : List Byte
  stopBitsGood : Bool
deriving DecidableEq, Repr

/-- One step of the part: an edge on a line, the arrival of bytes, the expiry of a timer, or the completion of an
operation that took time. The table gives the rows no bits; the operands are what the event itself brings. -/
inductive Instr where
  /-- POWER_ON_RESET (R165). -/
  | powerOnReset
  /-- POWER_LOSS (R176). -/
  | powerLoss
  /-- PROFILE_READ_DONE (R167): the image as read from the flash. -/
  | profileReadDone (image : List Byte)
  /-- REGISTRY_LOAD_DONE (R169): the stored slots, and whether the header, that the array could not read (R166). -/
  | registryLoadDone (unreadable : List EntryIx) (headerUnreadable : Bool)
  /-- SUPPLY_FAIL_ASSERTED (R172). -/
  | supplyFailAsserted
  /-- SUPPLY_FAIL_DEASSERTED (R175). -/
  | supplyFailDeasserted
  /-- LINK_RESET (R171): RESET_N is asserted. -/
  | linkReset
  /-- PRESENCE_ASSERTED (R23). -/
  | presenceAsserted (b : Bay)
  /-- PRESENCE_DROPPED (R25). -/
  | presenceDropped (b : Bay)
  /-- SETTLE_TIMER_EXPIRY (R24). -/
  | settleTimerExpiry (b : Bay)
  /-- ABSENCE_TIMER_EXPIRY (R26). -/
  | absenceTimerExpiry (b : Bay)
  /-- SWATH_RISE (R48). -/
  | swathRise
  /-- SWATH_FALL (R48). -/
  | swathFall
  /-- SWATH_LIMIT_EXPIRY (R54). -/
  | swathLimitExpiry
  /-- FIRE_BURST (R41): the start address and the length in bytes. -/
  | fireBurst (start : Addr24) (len : Nat)
  /-- FIRE_BYTE (R44): the next byte of the fire burst in service is read from the SRAM. -/
  | fireByte
  /-- LINK_BURST_DONE (R58). -/
  | linkBurstDone
  /-- LINK_REQUEST (R139): the last byte of a request frame. -/
  | linkRequest (byte : Byte)
  /-- LINK_BADFRAME_TIMEOUT (R140). -/
  | linkBadframeTimeout
  /-- LINK_STALL (R141). -/
  | linkStall
  /-- LINK_OVERRUN_BYTE (R142): a byte while a transaction is outstanding. -/
  | linkOverrunByte (byte : Byte)
  /-- OVERRUN_QUIET_EXPIRY (R142). -/
  | overrunQuietExpiry
  /-- LINK_RESPONSE_SENT (R143). -/
  | linkResponseSent
  /-- QUIET_WAIT_ELAPSED (R8). -/
  | quietWaitElapsed (b : Bay)
  /-- TAG_STRAY_BYTE (R9). -/
  | tagStrayByte (b : Bay)
  /-- REQUEST_SENT (R11). -/
  | requestSent (b : Bay)
  /-- TAG_REPLY (R12). -/
  | tagReply (b : Bay) (answer : TagAnswer)
  /-- REPLY_TIMEOUT (R13): whether a reply had begun. -/
  | replyTimeout (b : Bay) (begun : Bool)
  /-- POLL_TIMER_EXPIRY (R14). -/
  | pollTimerExpiry (b : Bay)
  /-- COMPLETION_LIMIT_EXPIRY (R15). -/
  | completionLimitExpiry (b : Bay)
  /-- PROOF_SERVICE_DONE (R39). -/
  | proofServiceDone
  /-- IDLE_FLUSH_EXPIRY (R83). -/
  | idleFlushExpiry (b : Bay)
  /-- REGISTRY_WRITE_COMPLETE (R115): whether the array reports success. -/
  | registryWriteComplete (ok : Bool)
  /-- NOTICE_FRAME_SENT (R162). -/
  | noticeFrameSent
  /-- LINK_FRAME_BYTE (R140): a byte that does not complete a frame. -/
  | linkFrameByte (byte : Byte)
  /-- RESET_N_DEASSERTED (R144). -/
  | resetNDeasserted
deriving DecidableEq, Repr

end Sys2Proof
end

