-- ==== Sys2Proof/WellFormed.lean ====
section
/-! DEFINITION. Which terms of Instr are commands the spec's table describes: the operand ranges of the rules. -/

namespace Sys2Proof

/-- The profile loader reads 341 bytes (R186). -/
def profileBytes : Nat := 341

/-- The operand ranges: a burst has 1 to 256 bytes (R41), a profile image 341 bytes (R186), a reply at least one byte
(R9: without one it is a no-reply, which REPLY_TIMEOUT brings). Every other operand is in range by its type. -/
def Instr.wellFormed : Instr → Bool
  | .fireBurst _ len => decide (1 ≤ len) && decide (len ≤ 256)
  | .profileReadDone image => decide (image.length = profileBytes)
  | .tagReply _ answer => !answer.bytes.isEmpty
  | .powerOnReset => true
  | .powerLoss => true
  | .registryLoadDone _ _ => true
  | .supplyFailAsserted => true
  | .supplyFailDeasserted => true
  | .linkReset => true
  | .presenceAsserted _ => true
  | .presenceDropped _ => true
  | .settleTimerExpiry _ => true
  | .absenceTimerExpiry _ => true
  | .swathRise => true
  | .swathFall => true
  | .swathLimitExpiry => true
  | .fireByte => true
  | .linkBurstDone => true
  | .linkRequest _ => true
  | .linkBadframeTimeout => true
  | .linkStall => true
  | .linkOverrunByte _ => true
  | .overrunQuietExpiry => true
  | .linkResponseSent => true
  | .quietWaitElapsed _ => true
  | .tagStrayByte _ => true
  | .requestSent _ => true
  | .replyTimeout _ _ => true
  | .pollTimerExpiry _ => true
  | .completionLimitExpiry _ => true
  | .proofServiceDone => true
  | .idleFlushExpiry _ => true
  | .registryWriteComplete _ => true
  | .noticeFrameSent => true
  | .linkFrameByte _ => true
  | .resetNDeasserted => true

end Sys2Proof
end

