-- ==== Sys2Proof/Decode.lean ====
section
/-! DEFINITION. The command a word spells by the bits of spec/opcode_table.json. The table gives its 36 rows no bits
("fields": [], no match and no mask), so no word spells a command. -/

namespace Sys2Proof

/-- The command that the word `w` of `nbits` bits spells: none, since no row of the table has bits. -/
def decodeTableWord (_nbits _w : Nat) : Option Instr := none

end Sys2Proof
end

