-- ==== Sys2Proof/Machine/State.lean ====
section
/-! DEFINITION. The state of the CK8 as plain data, its power-on values, and the two types a stop would need. -/

namespace Sys2Proof.Machine

/-! ### Part state and lines -/

/-- The five part states (R165). -/
inductive PartState where
  | loading | ready | noProfile | drain | drained
deriving DecidableEq, Repr

/-- What LOADING is waiting for: the end of the profile read (R166) or of the registry load (R169). -/
inductive LoadPhase where
  | readingProfile | loadingRegistry
deriving DecidableEq, Repr

/-- A timer is stopped, or runs towards a limit in microseconds; its expiry is a command (notes/assumptions/7). -/
inductive Timer where
  | stopped
  | running (limitUs : Nat)
deriving DecidableEq, Repr

/-- The levels of the lines the part looks at: presence (R22), SWATH (R47), RESET_N asserted (R144) and SUPPLY_FAIL as
last seen (R165). -/
structure Pins where
  presence : Vector Bool 8
  swath : Bool
  resetN : Bool
  supplyFail : Bool
deriving DecidableEq, Repr

/-! ### Names shared by blocks -/

/-- A bay's permission to fire (R21, R121), weakest first. -/
inductive Action where
  | accept | limit | block
deriving DecidableEq, Repr

/-- The verdicts of R103 and R184. -/
inductive Verdict where
  | genuine | refilled | rolledBack | tampered | priorRefill | overdrawn
deriving DecidableEq, Repr

/-- The claimants of a tag line (R10). -/
inductive Claimant where
  | admission | commit | mark | link
deriving DecidableEq, Repr

/-- The sticky faults of R21. -/
structure Sticky where
  commitError : Bool
  countSpent : Bool
deriving DecidableEq, Repr

/-! ### The profile (R186) -/

structure PlaneEntry where
  base : Nat
  length : Nat
  bay : Bay
  enabled : Bool
deriving DecidableEq, Repr

structure BaySettings where
  ink : Byte
  lowMark : Nat
  small : Nat
  medium : Nat
  large : Nat
  commitStep : Nat
  /-- In units of 100 ms. -/
  idleFlush : Nat
deriving DecidableEq, Repr

structure PolicyRow where
  action : Action
  allowanceLU : Nat
  mark : Bool
deriving DecidableEq, Repr

structure Policy where
  refilled : PolicyRow
  rolledBack : PolicyRow
  tampered : PolicyRow
  priorRefill : PolicyRow
  overdrawn : PolicyRow
deriving DecidableEq, Repr

structure Profile where
  makers : List Nat
  baud : Nat
  printerId : BitVec 32
  swathLimitMs : Nat
  saveInterval : Nat
  margin : Nat
  mask : BitVec 32
  planes : List PlaneEntry
  bays : Vector BaySettings 8
  policy : Policy
  keys : Vector (BitVec 128) 4
deriving DecidableEq, Repr

/-! ### The tag line units (R10) -/

inductive LineState where
  | idle | request | awaitReply | pollWait
deriving DecidableEq, Repr

/-- The commands of a transaction; POLL is the request of its POLLING phase (R8, R10). -/
inductive TagCommand where
  | peek | store | prove
deriving DecidableEq, Repr

/-- A claim: one claimant's request for one transaction (R17). -/
structure Claim where
  claimant : Claimant
  command : TagCommand
  page : Nat
  offset : Nat
  length : Nat
  data : List Byte
deriving DecidableEq, Repr

inductive Phase where
  | first | polling
deriving DecidableEq, Repr

/-- The current transaction (R10). `limitPassed` is what R15 needs: the completion limit expired during a POLL. -/
structure Transaction where
  claim : Claim
  phase : Phase
  isRepeat : Bool
  retries : Nat
  storeSent : Bool
  limitPassed : Bool
deriving DecidableEq, Repr

/-- The waiting claims; each claimant holds at most one on a line (R17). -/
structure Waiting where
  admission : Option Claim
  commit : Option Claim
  mark : Option Claim
  link : Option Claim
deriving DecidableEq, Repr

/-- One tag line unit (R10). `sending`: the request's bytes are going out. `quiet`: no byte has been on the line for
100 µs (R8). -/
structure LineUnit where
  state : LineState
  current : Option Transaction
  waiting : Waiting
  lastLink : Bool
  replyTimer : Timer
  pollTimer : Timer
  limitTimer : Timer
  sending : Bool
  quiet : Bool
deriving DecidableEq, Repr

/-- The outcomes of R16. -/
inductive LineOutcome where
  | success (data : List Byte)
  | denied
  | programFailed
  | silent
  | garbled
  | abandoned (storeSent : Bool)
  | withdrawn
deriving DecidableEq, Repr

/-! ### The bay contexts (R21) -/

inductive BayState where
  | empty | settling | identifying | proving | checking | admitted | limited | blocked | rejected | faulted
deriving DecidableEq, Repr

/-- A PROVE outcome held until the expected response arrives (R30, R31). -/
inductive ProveResult where
  | response (bytes : List Byte)
  | failed
deriving DecidableEq, Repr

structure BayContext where
  state : BayState
  action : Option Action
  owner : Option EntryIx
  nonce : Option (List Byte)
  attempts : Nat
  identity : Option (List Byte)
  level : Option (List Byte)
  marks : Option (List Byte)
  sticky : Sticky
  settle : Timer
  absence : Timer
  awaitLine : Bool
  awaitProof : Bool
  /-- Page 0 held aside until page 1 is read (R28). -/
  heldPage : Option (List Byte)
  /-- The PROVE outcome, held (R30). -/
  heldProve : Option ProveResult
  /-- The expected response, held (R30). -/
  heldExpected : Option (List Byte)
  /-- The check comparison, held: true is check-good (R32). -/
  heldCheck : Option Bool
deriving DecidableEq, Repr

/-! ### The proof engine (R38, R39) -/

inductive Requester where
  | admission | commit
deriving DecidableEq, Repr

inductive ProofInputs where
  | nonce
  | proof (slot : Fin 4) (serial : BitVec 64) (nonce : List Byte)
  | check (slot : Fin 4) (serial : BitVec 64) (level : Nat) (use : Nat) (stamp : BitVec 32)
deriving DecidableEq, Repr

/-- A request; `cancelled` marks one in service whose bay has entered EMPTY (R40). -/
structure ProofRequest where
  bay : Bay
  requester : Requester
  inputs : ProofInputs
  cancelled : Bool
deriving DecidableEq, Repr

structure ProofEngine where
  service : Option ProofRequest
  fifo : List ProofRequest
  draws : BitVec 32
deriving DecidableEq, Repr

/-! ### The swath tracker, the drop meter and the swath memory port -/

inductive TrackerState where
  | noSwath | openSwath | waitLow
deriving DecidableEq, Repr

/-- The swath tracker (R47). -/
structure SwathTracker where
  state : TrackerState
  number : BitVec 16
  /-- true is OPEN. -/
  gate : Vector Bool 8
  owner : Vector (Option EntryIx) 8
  limit : Timer
deriving DecidableEq, Repr

/-- The drop meter's tallies and saturated marks (R45). -/
structure DropMeter where
  tally : Vector Nat 8
  saturated : Vector Bool 8
deriving DecidableEq, Repr

/-- A fire burst: its next address and how many bytes are still to be returned (R41). -/
structure FireBurst where
  next : Addr24
  left : Nat
deriving DecidableEq, Repr

/-- The fire port (R41). `returned` is its output: the bytes given to the head driver by the last act that gave any. -/
structure FirePort where
  service : Option FireBurst
  waiting : List FireBurst
  returned : List Byte
deriving DecidableEq, Repr

/-- A link burst (R58); `discarded` says a link reset has dropped its result (R61). -/
structure LinkBurst where
  write : Bool
  start : Addr24
  len : Nat
  data : List Byte
  discarded : Bool
deriving DecidableEq, Repr

inductive PortUse where
  | idle | fire | link
deriving DecidableEq, Repr

/-- The swath memory port and its arbiter (R59). The fire claim is the head of the fire port's waiting list. -/
structure MemoryPort where
  use : PortUse
  linkClaim : Option LinkBurst
  linkService : Option LinkBurst
  runCount : Nat
deriving DecidableEq, Repr

/-! ### The debit pool (R63, R64, R70, R75) -/

structure DebitRecord where
  link : Option RecordIx
  swath : BitVec 16
  volume : Nat
deriving DecidableEq, Repr

structure Queue where
  head : Option RecordIx
  tail : Option RecordIx
  count : Nat
  total : Nat
deriving DecidableEq, Repr

structure DebitPool where
  records : Vector DebitRecord 64
  free : Queue
  pend : Vector Queue 8
  batch : Vector Queue 8
  carry : Vector Nat 8
  starved : Vector Nat 8
deriving DecidableEq, Repr

/-! ### The commit contexts (R82) -/

inductive CommitState where
  | idle | provingCode | storing | polling
deriving DecidableEq, Repr

inductive FlushTimer where
  | stopped
  | running (limitUs : Nat)
  | elapsed
deriving DecidableEq, Repr

structure CommitContext where
  state : CommitState
  batchCarry : Nat
  batchResidue : Nat
  total : Nat
  charged : Nat
  newResidue : Nat
  priorLevel : Nat
  priorUse : Nat
  newLevel : Nat
  newUse : Nat
  excess : Nat
  pageData : Option (List Byte)
  flush : FlushTimer
  lowPosted : Bool
deriving DecidableEq, Repr

/-! ### The supply registry and its array (R103 to R105, R114 to R117) -/

structure DoubtRecord where
  priorLevel : Nat
  priorUse : Nat
  expectedLevel : Nat
  expectedUse : Nat
  total : Nat
  overdraw : Nat
deriving DecidableEq, Repr

/-- The saved fields of an entry but for its check (R103). -/
structure Saved where
  valid : Bool
  serial : BitVec 64
  capacity : Nat
  lastLevel : Nat
  lastUse : Nat
  residue : Nat
  debt : Nat
  overdraw : Nat
  worst : Verdict
  held : Action
  allowance : Nat
  doubt : Option DoubtRecord
  lastSeen : Nat
deriving DecidableEq, Repr

/-- A working entry (R103). Its "write in flight" is read from the writer (`Registry.inFlight`). -/
structure Entry where
  saved : Saved
  check : BitVec 32
  inBay : Option Bay
  dirty : Bool
  commits : Nat
deriving DecidableEq, Repr

structure Header where
  sequence : Nat
  writtenOff : Nat
  check : BitVec 32
  dirty : Bool
deriving DecidableEq, Repr

/-- What the writer has handed to the array (R115): the snapshot and the check computed over it. -/
inductive Snapshot where
  | entry (e : EntryIx) (saved : Saved) (check : BitVec 32)
  | header (sequence writtenOff : Nat) (check : BitVec 32)
deriving DecidableEq, Repr

structure Registry where
  entries : Vector Entry 48
  header : Header
  /-- The write in flight, if any. -/
  write : Option Snapshot
  position : EntryIx
  /-- The bays whose lookup is held (R109), in the order held. -/
  heldLookups : List Bay
deriving DecidableEq, Repr

/-- A slot of the nonvolatile array: erased, content with a check, or content whose check does not match because a
write was cut off or failed (R116, R118). -/
inductive StoredSlot where
  | erased
  | stored (saved : Saved) (check : BitVec 32)
  | torn
deriving DecidableEq, Repr

inductive StoredHeader where
  | erased
  | stored (sequence writtenOff : Nat) (check : BitVec 32)
  | torn
deriving DecidableEq, Repr

structure StoredArray where
  slots : Vector StoredSlot 48
  header : StoredHeader
deriving DecidableEq, Repr

/-! ### The mark writer (R133) -/

/-- `inHand` is the claim in hand while CLAIMED (its kind and slot); none is IDLE. -/
structure MarkWriter where
  list : List Verdict
  inHand : Option (Verdict × Nat)
deriving DecidableEq, Repr

/-! ### The carriage link port (R138) -/

inductive ReceiveState where
  | idle | receiving | awaitingService | responding
deriving DecidableEq, Repr

inductive Space where
  | swath | supply
deriving DecidableEq, Repr

/-- The six statuses of R143. -/
inductive LinkStatus where
  | done | refused | absent | notReady | failed | badFrame
deriving DecidableEq, Repr

inductive Route where
  | swath | image | passRead | passWrite
  | immediate (status : LinkStatus)
deriving DecidableEq, Repr

structure LinkRequest where
  write : Bool
  space : Space
  addr : Addr24
  len : Nat
  data : List Byte
deriving DecidableEq, Repr

structure LinkResponse where
  status : LinkStatus
  data : List Byte
deriving DecidableEq, Repr

/-- The outstanding transaction. `request` is none for a BADFRAME answer (R139, R140); `waitsOrphan` says its claim is
not yet made because an orphan is in progress on the line (R149). -/
structure LinkTransaction where
  request : Option LinkRequest
  route : Route
  waitsOrphan : Bool
  response : Option LinkResponse
deriving DecidableEq, Repr

structure LinkPort where
  state : ReceiveState
  buffer : List Byte
  badFrame : Bool
  byteTimer : Timer
  outstanding : Option LinkTransaction
  overrun : Bool
  quietTimer : Timer
  orphan : Vector Bool 8
deriving DecidableEq, Repr

/-! ### The notice unit (R155) -/

/-- The 27 kinds of R185, in code order. -/
inductive NoticeKind where
  | ready | profileBad | registryTorn | bayAdmitted | bayRejected | bayDeparted | refillVerdict | allowanceSpent
  | levelLow | levelZero | commitDone | commitError | countSpent | tagFault | markWritten | marksFull | markFailed
  | poolStarved | tallySaturated | strayRead | swathSplit | refusedWrite | linkError | registryFault
  | debtWrittenOff | drained | queueFull
deriving DecidableEq, Repr

/-- A queued notice; bay none is the device, 0x0F (R155). -/
structure Notice where
  kind : NoticeKind
  bay : Option Bay
  repeats : Nat
  payload : List Byte
  sending : Bool
deriving DecidableEq, Repr

inductive Transmitter where
  | idle
  /-- SENDING, at the line rate fixed when the frame began (R162). -/
  | sending (rate : Nat)
deriving DecidableEq, Repr

structure NoticeUnit where
  queue : List Notice
  closed : Bool
  mask : Option (BitVec 32)
  rate : Nat
  transmitter : Transmitter
deriving DecidableEq, Repr

/-- The swath SRAM: the bytes that differ from what an unwritten byte reads as, by rising address. -/
abbrev Memory := List Host.Cell

/-! ### The whole part -/

structure State where
  powered : Bool
  pins : Pins
  part : PartState
  loadPhase : LoadPhase
  /-- The profile accepted in LOADING and not yet taken by the blocks (R168). -/
  accepted : Option Profile
  /-- The copies the blocks took at the entry to READY (R168), held once. -/
  copies : Option Profile
  sram : Memory
  array : StoredArray
  notices : NoticeUnit
  registry : Registry
  pool : DebitPool
  ctx : Vector BayContext 8
  lines : Vector LineUnit 8
  commits : Vector CommitContext 8
  marks : Vector MarkWriter 8
  proof : ProofEngine
  tracker : SwathTracker
  meter : DropMeter
  port : MemoryPort
  fire : FirePort
  link : LinkPort
  /-- The model's own counter: free values are read at it (notes/assumptions/6). -/
  freeCount : Nat
  /-- The commands waiting, first in first out. -/
  pending : List Instr
deriving DecidableEq, Repr

/-- No fault: the manual gives the part no state in which it stops (notes/assumptions/16). -/
inductive Fault where
deriving DecidableEq, Repr

/-- Why a command is turned away. -/
inductive Refusal where
  /-- Raised by an arm of exec whose command has no meaning yet. Safe. -/
  | notModelled (mnemonic : String)
  /-- Raised by FIRE_BURST, PROFILE_READ_DONE and TAG_REPLY for an operand outside the rules' ranges
  (`Instr.wellFormed`): such a term is no command of the part. Safe: the model stops where the hardware meets no such
  event. -/
  | notACommand (mnemonic : String)
deriving DecidableEq, Repr

/-! ### Power-on values -/

/-- R10. -/
def LineUnit.reset : LineUnit :=
  { state := .idle, current := none, waiting := ⟨none, none, none, none⟩, lastLink := false,
    replyTimer := .stopped, pollTimer := .stopped, limitTimer := .stopped, sending := false, quiet := false }

/-- R21. -/
def BayContext.reset : BayContext :=
  { state := .empty, action := none, owner := none, nonce := none, attempts := 0, identity := none, level := none,
    marks := none, sticky := ⟨false, false⟩, settle := .stopped, absence := .stopped, awaitLine := false,
    awaitProof := false, heldPage := none, heldProve := none, heldExpected := none, heldCheck := none }

/-- R38, R39. -/
def ProofEngine.reset : ProofEngine := { service := none, fifo := [], draws := 0 }

/-- R47. -/
def SwathTracker.reset : SwathTracker :=
  { state := .noSwath, number := 0, gate := .replicate 8 false, owner := .replicate 8 none, limit := .stopped }

/-- R45. -/
def DropMeter.reset : DropMeter := { tally := .replicate 8 0, saturated := .replicate 8 false }

/-- R41. -/
def FirePort.reset : FirePort := { service := none, waiting := [], returned := [] }

/-- R59. -/
def MemoryPort.reset : MemoryPort := { use := .idle, linkClaim := none, linkService := none, runCount := 0 }

/-- An empty queue has head none, tail none, count 0 and total 0 (R64). -/
def Queue.empty : Queue := { head := none, tail := none, count := 0, total := 0 }

/-- R65: FREE holds the 64 records in number order. -/
def DebitPool.reset : DebitPool :=
  { records := Vector.ofFn fun i => { link := if h : i.val + 1 < 64 then some ⟨i.val + 1, h⟩ else none,
                                      swath := 0, volume := 0 },
    free := { head := some 0, tail := some 63, count := 64, total := 0 },
    pend := .replicate 8 Queue.empty, batch := .replicate 8 Queue.empty,
    carry := .replicate 8 0, starved := .replicate 8 0 }

/-- R82. -/
def CommitContext.reset : CommitContext :=
  { state := .idle, batchCarry := 0, batchResidue := 0, total := 0, charged := 0, newResidue := 0, priorLevel := 0,
    priorUse := 0, newLevel := 0, newUse := 0, excess := 0, pageData := none, flush := .stopped, lowPosted := false }

/-- The fields of an entry that is not valid have no meaning (R103); they are held at these values. -/
def Saved.blank : Saved :=
  { valid := false, serial := 0, capacity := 0, lastLevel := 0, lastUse := 0, residue := 0, debt := 0, overdraw := 0,
    worst := .genuine, held := .accept, allowance := 0, doubt := none, lastSeen := 0 }

/-- A working entry that is not valid, with the working fields of R106. -/
def Entry.blank : Entry := { saved := Saved.blank, check := 0, inBay := none, dirty := false, commits := 0 }

/-- R106: before the load no entry is valid and the round-robin position is 47. -/
def Registry.reset : Registry :=
  { entries := .replicate 48 Entry.blank,
    header := { sequence := 0, writtenOff := 0, check := 0, dirty := false },
    write := none, position := 47, heldLookups := [] }

/-- R133. -/
def MarkWriter.reset : MarkWriter := { list := [], inHand := none }

/-- R138. -/
def LinkPort.reset : LinkPort :=
  { state := .idle, buffer := [], badFrame := false, byteTimer := .stopped, outstanding := none, overrun := false,
    quietTimer := .stopped, orphan := .replicate 8 false }

/-- R155. -/
def NoticeUnit.reset : NoticeUnit :=
  { queue := [], closed := false, mask := none, rate := Config.defaultRate, transmitter := .idle }

/-- The array of a freshly made part (R117). -/
def StoredArray.erased : StoredArray := { slots := .replicate 48 .erased, header := .erased }

/-- The part right after its power-on reset: every block at its power-on values and LOADING entered (R165), lines
deasserted, the array as freshly made, the SRAM with nothing listed, nothing waiting. -/
def State.reset : State :=
  { powered := true,
    pins := { presence := .replicate 8 false, swath := false, resetN := false, supplyFail := false },
    part := .loading, loadPhase := .readingProfile, accepted := none, copies := none, sram := [],
    array := StoredArray.erased, notices := NoticeUnit.reset, registry := Registry.reset, pool := DebitPool.reset,
    ctx := .replicate 8 BayContext.reset, lines := .replicate 8 LineUnit.reset,
    commits := .replicate 8 CommitContext.reset, marks := .replicate 8 MarkWriter.reset, proof := ProofEngine.reset,
    tracker := SwathTracker.reset, meter := DropMeter.reset, port := MemoryPort.reset, fire := FirePort.reset,
    link := LinkPort.reset, freeCount := 0, pending := [] }

end Sys2Proof.Machine
end

