-- ==== Sys2Proof/Machine/Ops.lean ====
section
/-! DEFINITION. The named operations under every block: byte strings and little-endian fields, the three CRCs (R180),
the swath SRAM's reads and writes (R58), and the accessors of State's fixed rows. -/

namespace Sys2Proof.Machine

/-! ### Byte strings -/

/-- The value of a little-endian byte string (00_scope, "Byte order and numbers"). -/
def leNat : List Byte → Nat
  | [] => 0
  | b :: bs => b.toNat + 256 * leNat bs

/-- `v` as `n` little-endian bytes, the part of it that fits. -/
def toLE : Nat → Nat → List Byte
  | 0, _ => []
  | n + 1, v => BitVec.ofNat 8 v :: toLE n (v / 256)

/-- `len` bytes of `l` from offset `off`. -/
def slice (l : List Byte) (off len : Nat) : List Byte := (l.drop off).take len

/-- The little-endian field of `len` bytes at offset `off`. -/
def field (l : List Byte) (off len : Nat) : Nat := leNat (slice l off len)

/-- `l` with the bytes of `d` written over it from offset `off`. -/
def overwrite (l : List Byte) (off : Nat) (d : List Byte) : List Byte :=
  l.take off ++ d ++ l.drop (off + d.length)

/-- Byte by byte AND: what programming does to erased-high bytes (R6, R150). -/
def andBytes : List Byte → List Byte → List Byte
  | a :: as, b :: bs => (a &&& b) :: andBytes as bs
  | _, _ => []

/-- No byte of `new` has a 1 where the byte of `old` at the same place has a 0 (R7, R150). -/
def onlyClears (new old : List Byte) : Bool :=
  match new, old with
  | [], _ => true
  | n :: ns, o :: os => (n &&& ~~~o == 0#8) && onlyClears ns os
  | _ :: _, [] => false

/-! ### CRCs (R180) -/

/-- `f n`, with `n` evaluated first, so that a long fold stays shallow in the kernel. -/
def strict {α : Type} (n : Nat) (f : Nat → α) : α :=
  match n with
  | 0 => f 0
  | k + 1 => f (k + 1)

@[simp] theorem strict_eq {α : Type} (n : Nat) (f : Nat → α) : strict n f = f n := by
  cases n <;> rfl

/-- One bit of a CRC of `w` bits, most significant bit first. -/
def crcBitHigh (w poly c : Nat) : Nat :=
  if c.testBit (w - 1) then ((c <<< 1) % 2 ^ w) ^^^ poly else (c <<< 1) % 2 ^ w

/-- One bit of a reflected CRC. -/
def crcBitLow (poly c : Nat) : Nat :=
  if c.testBit 0 then (c >>> 1) ^^^ poly else c >>> 1

/-- `step` taken for each of `n` bits. -/
def crcBits (step : Nat → Nat) : Nat → Nat → Nat
  | 0, c => c
  | n + 1, c => strict (step c) (crcBits step n)

/-- The bytes of a frame taken in order, each entering at bit `shift`. -/
def crcFold (step : Nat → Nat) (shift : Nat) : List Byte → Nat → Nat
  | [], c => c
  | b :: bs, c => strict (crcBits step 8 (c ^^^ (b.toNat <<< shift))) (crcFold step shift bs)

/-- CRC-8: polynomial 0x31, initial value 0xFF, not reflected, no final XOR. -/
def crc8 (l : List Byte) : Byte := BitVec.ofNat 8 (crcFold (crcBitHigh 8 0x31) 0 l 0xFF)

/-- CRC-16: polynomial 0x1021, initial value 0xFFFF, not reflected, no final XOR. -/
def crc16 (l : List Byte) : BitVec 16 := BitVec.ofNat 16 (crcFold (crcBitHigh 16 0x1021) 8 l 0xFFFF)

/-- CRC-32: polynomial 0x04C11DB7, initial value and final XOR 0xFFFFFFFF, reflected on input and output. -/
def crc32 (l : List Byte) : BitVec 32 :=
  BitVec.ofNat 32 (crcFold (crcBitLow 0xEDB88320) 0 l 0xFFFFFFFF ^^^ 0xFFFFFFFF)

/-! ### The swath SRAM -/

/-- The byte at an address; an unlisted address reads as `Config.sramErased`. -/
def Memory.read : Memory → Nat → Byte
  | [], _ => Config.sramErased
  | (a, v) :: m, x => if x = a then v else Memory.read m x

/-- A write that keeps the canonical form: the erased value is not listed. -/
def Memory.write : Memory → Nat → Byte → Memory
  | [], x, v => if v = Config.sramErased then [] else [(x, v)]
  | (a, w) :: m, x, v =>
    if x < a then (if v = Config.sramErased then (a, w) :: m else (x, v) :: (a, w) :: m)
    else if x = a then (if v = Config.sramErased then m else (x, v) :: m)
    else (a, w) :: Memory.write m x v

/-- Every listed address is above `lo`, addresses rise strictly, and no listed byte is the erased value. -/
def Memory.wfFrom : Nat → Memory → Bool
  | _, [] => true
  | lo, (a, v) :: m => decide (lo ≤ a) && decide (v ≠ Config.sramErased) && Memory.wfFrom (a + 1) m

/-- The canonical form of the SRAM. -/
def Memory.wf (m : Memory) : Bool := Memory.wfFrom 0 m

/-- The bytes of a burst, the addresses wrapping above 0xFFFFFF (R41, R58). -/
def Memory.readBurst (m : Memory) : Addr24 → Nat → List Byte
  | _, 0 => []
  | a, n + 1 => Memory.read m a.toNat :: Memory.readBurst m (a + 1) n

/-- A link write stores its data bytes, wrapping above 0xFFFFFF (R58). -/
def Memory.writeBurst : Memory → Addr24 → List Byte → Memory
  | m, _, [] => m
  | m, a, v :: vs => Memory.writeBurst (Memory.write m a.toNat v) (a + 1) vs

/-! ### Rows of State -/

def State.modCtx (b : Bay) (f : BayContext → BayContext) (s : State) : State := { s with ctx := upd s.ctx b f }
def State.modLine (b : Bay) (f : LineUnit → LineUnit) (s : State) : State := { s with lines := upd s.lines b f }
def State.modCommit (b : Bay) (f : CommitContext → CommitContext) (s : State) : State :=
  { s with commits := upd s.commits b f }
def State.modMark (b : Bay) (f : MarkWriter → MarkWriter) (s : State) : State := { s with marks := upd s.marks b f }
def State.modEntry (e : EntryIx) (f : Entry → Entry) (s : State) : State :=
  { s with registry := { s.registry with entries := upd s.registry.entries e f } }
def State.modHeader (f : Header → Header) (s : State) : State :=
  { s with registry := { s.registry with header := f s.registry.header } }
def State.modPool (f : DebitPool → DebitPool) (s : State) : State := { s with pool := f s.pool }
def State.modLink (f : LinkPort → LinkPort) (s : State) : State := { s with link := f s.link }
def State.modPins (f : Pins → Pins) (s : State) : State := { s with pins := f s.pins }

/-- The state with the counter of free values advanced. -/
def State.bumpFree (s : State) : State := { s with freeCount := s.freeCount + 1 }

/-- `f` taken for every bay in ascending order. -/
def forBays (f : Bay → State → State) (s : State) : State := allBays.foldl (fun t b => f b t) s

/-- `f` taken when the part is powered; without power no block acts (notes/assumptions/11). -/
def whenPowered (f : State → State) (s : State) : State := if s.powered then f s else s

/-- The bay context holds a sticky fault. -/
def Sticky.any (f : Sticky) : Bool := f.commitError || f.countSpent

/-- The bay is ADMITTED, LIMITED or BLOCKED. -/
def BayState.settled : BayState → Bool
  | .admitted | .limited | .blocked => true
  | _ => false

/-- The bay is in SETTLING, IDENTIFYING, PROVING or CHECKING. -/
def BayState.inAdmission : BayState → Bool
  | .settling | .identifying | .proving | .checking => true
  | _ => false

end Sys2Proof.Machine
end

