-- ==== Sys2Proof/Machine/Operands.lean ====
section
/-! DEFINITION. The layouts of chapter 12: codes, page fields, tag-line requests and replies, carriage-link frames, and
the profile image. -/

namespace Sys2Proof.Machine

/-! ### Codes (R182, R184) -/

def Verdict.code : Verdict → Nat
  | .genuine => 0 | .refilled => 1 | .rolledBack => 2 | .tampered => 3 | .priorRefill => 4 | .overdrawn => 5

def Action.code : Action → Nat
  | .accept => 0 | .limit => 1 | .block => 2

def Claimant.code : Claimant → Nat
  | .admission => 0 | .commit => 1 | .mark => 2 | .link => 3

/-- Rejection reasons (R29, R31, R184). -/
inductive RejectReason where
  | blank | foreign | wrongInk | keyUnknown | counterfeit
deriving DecidableEq, Repr

def RejectReason.code : RejectReason → Nat
  | .blank => 1 | .foreign => 2 | .wrongInk => 3 | .keyUnknown => 4 | .counterfeit => 5

/-- Fault reasons (R184): the four line outcomes, SCREENED and SERIAL_IN_USE. -/
inductive FaultReason where
  | denied | programFailed | silent | garbled | screened | serialInUse
deriving DecidableEq, Repr

def FaultReason.code : FaultReason → Nat
  | .denied => 1 | .programFailed => 2 | .silent => 3 | .garbled => 4 | .screened => 5 | .serialInUse => 6

/-- The fault reason of an outcome that R16 reports; none for the three it does not. -/
def LineOutcome.faultReason : LineOutcome → Option FaultReason
  | .denied => some .denied
  | .programFailed => some .programFailed
  | .silent => some .silent
  | .garbled => some .garbled
  | .success _ => none
  | .abandoned _ => none
  | .withdrawn => none

/-- Profile reasons (R167, R184). -/
inductive ProfileReason where
  | crc | version | planes | weights | range
deriving DecidableEq, Repr

def ProfileReason.code : ProfileReason → Nat
  | .crc => 1 | .version => 2 | .planes => 3 | .weights => 4 | .range => 5

def LinkStatus.code : LinkStatus → Byte
  | .done => 0x00#8 | .refused => 0x01#8 | .absent => 0x02#8 | .notReady => 0x03#8 | .failed => 0x04#8 | .badFrame => 0x05#8

def TagCommand.code : TagCommand → Byte
  | .peek => 0x11#8 | .store => 0x22#8 | .prove => 0x33#8

/-! ### Tag pages (R2 to R5, R183) -/

def pageSerial (id : List Byte) : BitVec 64 := BitVec.ofNat 64 (field id 0 8)
def pageMaker (id : List Byte) : Nat := field id 8 2
def pageInk (id : List Byte) : Byte := BitVec.ofNat 8 (field id 10 1)
def pageKeySlot (id : List Byte) : Nat := field id 11 1
def pageCapacity (id : List Byte) : Nat := field id 12 3
def pageFormat (id : List Byte) : Nat := field id 15 1

def pageLevel (p : List Byte) : Nat := field p 0 3
def pageUse (p : List Byte) : Nat := field p 3 2
def pageStamp (p : List Byte) : BitVec 32 := BitVec.ofNat 32 (field p 5 4)
def pageCheck (p : List Byte) : List Byte := slice p 9 8

/-- The level page a commit writes (R90): bytes 17 to 31 are 0x00. -/
def levelPage (level use : Nat) (stamp : BitVec 32) (check : List Byte) : List Byte :=
  toLE 3 level ++ toLE 2 use ++ toLE 4 stamp.toNat ++ check ++ List.replicate 15 0x00#8

/-- The kind byte of mark slot `k` (R4). -/
def markKind (marks : List Byte) (k : Nat) : Nat := field marks (4 * k) 1

/-- A slot whose kind byte is 0xFF is blank (R4, R126). -/
def markBlank (marks : List Byte) (k : Nat) : Bool := markKind marks k == 0xFF

/-- The kind byte is the code of a refill verdict (R126). -/
def isRefillKind (kind : Nat) : Bool := decide (1 ≤ kind) && decide (kind ≤ 5)

/-- The seven mark slots. -/
def markSlots : List Nat := [0, 1, 2, 3, 4, 5, 6]

/-- The lowest-numbered blank slot (R4, R134). -/
def lowestBlank (marks : List Byte) : Option Nat := markSlots.find? (markBlank marks)

/-- Some written slot holds the kind. -/
def holdsKind (marks : List Byte) (v : Verdict) : Bool := markSlots.any fun k => markKind marks k == v.code

/-- The four bytes of a mark (R4, R134). -/
def markBytes (v : Verdict) (printerId : BitVec 32) (use : Nat) : List Byte :=
  toLE 1 v.code ++ toLE 1 printerId.toNat ++ toLE 2 use

/-- The lock word's bytes, 28 to 31 of page 3 (R5). -/
def lockBytes (marks : List Byte) : List Byte := slice marks 28 4

/-- Notes page `k` is unlocked when its bit of the lock word is 1 (R5). -/
def unlocked (marks : List Byte) (k : Nat) : Bool := (field marks 28 4).testBit k

/-! ### Bits on a serial line (1.3, R162) -/

/-- A bit of a byte that goes out on a tag line or on NOTICE. The manual gives the start bit, the stop bit and the idle
level no polarity, so each stands under its own name (notes/assumptions/39). -/
inductive LineBit where
  | start
  | data (value : Bool)
  | stop
deriving DecidableEq, Repr

/-- One byte on the line: a start bit, eight data bits least significant first, a stop bit. -/
def byteBits (v : Byte) : List LineBit :=
  LineBit.start :: (List.ofFn fun i : Fin 8 => LineBit.data (v.getLsbD i)) ++ [LineBit.stop]

/-- Bytes that follow one another without gaps. -/
def serialBits (l : List Byte) : List LineBit := l.flatMap byteBits

/-! ### Tag-line requests (R8, R182) -/

/-- The request of a FIRST-phase transaction. -/
def Claim.request (c : Claim) : List Byte :=
  let body := c.command.code :: (toLE 1 c.page ++ toLE 1 c.offset ++ toLE 1 c.length) ++
    (match c.command with | .peek => [] | .store => c.data | .prove => c.data)
  body ++ [crc8 body]

/-- A POLL carries the page, offset and length of what it polls. -/
def Claim.poll (c : Claim) : List Byte :=
  let body := 0x44#8 :: (toLE 1 c.page ++ toLE 1 c.offset ++ toLE 1 c.length)
  body ++ [crc8 body]

/-- The request the transaction sends in its present phase. -/
def Transaction.request (t : Transaction) : List Byte :=
  match t.phase with
  | .first => t.claim.request
  | .polling => t.claim.poll

/-- The request as it goes out on the tag line. -/
def Transaction.requestBits (t : Transaction) : List LineBit := serialBits t.request

/-- What the part sends on a tag line, at 250 kbit/s (1.3, R8): the request of the transaction in progress while it goes
out, and nothing otherwise. -/
def LineUnit.output (u : LineUnit) : List LineBit :=
  match u.sending, u.current with
  | true, some t => t.requestBits
  | _, _ => []

/-! ### Tag-line replies (R9, R182) -/

/-- The class of a reply to the request in flight. -/
inductive ReplyClass where
  | accept (data : List Byte)
  | wait
  | denied
  | garbled
deriving DecidableEq, Repr

/-- How many bytes an ACCEPT carries after its status (R9). -/
def acceptData (t : Transaction) : Nat :=
  match t.phase, t.claim.command with
  | .first, .peek => t.claim.length
  | .first, .store => 0
  | .first, .prove => 0
  | .polling, .prove => 17
  | .polling, .peek => 1
  | .polling, .store => 1

/-- A good ACCEPT, WAIT or DENIED, or a garbled-type failure: an unknown status, a bad stop bit, a wrong CRC, a reply
cut short, a good BADFRAME, and a WAIT to a PEEK or to a STORE or PROVE sent for the first time (R9). -/
def classify (t : Transaction) (a : TagAnswer) : ReplyClass :=
  match a.bytes with
  | [] => .garbled
  | st :: rest =>
    let n := if st = 0x60#8 then acceptData t else 0
    let data := rest.take n
    if !a.stopBitsGood then .garbled
    else if (rest.drop n).head? ≠ some (crc8 (st :: data)) then .garbled
    else if st = 0x60#8 then .accept data
    else if st = 0x61#8 then
      (match t.phase, t.claim.command with
       | .first, .peek => .garbled
       | .first, _ => if t.isRepeat then .wait else .garbled
       | .polling, _ => .wait)
    else if st = 0x63#8 then .denied
    else .garbled

/-! ### Carriage-link frames (R139, R143, R181) -/

/-- Kind and space of a defined header byte: (WRITE, space). -/
def headerOf (h : Byte) : Option (Bool × Space) :=
  if h = 0xC0#8 then some (false, .swath)
  else if h = 0xC1#8 then some (true, .swath)
  else if h = 0xC2#8 then some (false, .supply)
  else if h = 0xC3#8 then some (true, .supply)
  else none

/-- The frame's full size, known from its header and length bytes (R139). -/
def frameSize (buf : List Byte) : Option Nat :=
  match headerOf (buf.headD 0), buf[4]? with
  | some (true, _), some n => some (7 + (n.toNat + 1))
  | some (false, _), some _ => some 7
  | _, _ => none

/-- The CRC-16 of a whole frame is right: its last two bytes, low byte first. -/
def frameCrcGood (buf : List Byte) : Bool :=
  decide (toLE 2 (crc16 (buf.take (buf.length - 2))).toNat = buf.drop (buf.length - 2))

/-- The request a whole frame asks for. -/
def requestOf (buf : List Byte) : LinkRequest :=
  let h := (headerOf (buf.headD 0)).getD (false, .swath)
  let len := field buf 4 1 + 1
  { write := h.1, space := h.2, addr := BitVec.ofNat 24 (field buf 1 3), len := len,
    data := if h.1 then slice buf 5 len else [] }

/-- The header byte of a request (R181). -/
def LinkRequest.header (r : LinkRequest) : Byte :=
  match r.write, r.space with
  | false, .swath => 0xC0#8
  | true, .swath => 0xC1#8
  | false, .supply => 0xC2#8
  | true, .supply => 0xC3#8

/-- The frame the engine controller sends for a request (R139, R181). -/
def LinkRequest.frame (r : LinkRequest) : List Byte :=
  let body := r.header :: (toLE 3 r.addr.toNat ++ toLE 1 (r.len - 1) ++ r.data)
  body ++ toLE 2 (crc16 body).toNat

/-- The response frame (R143): status, the data of a READ answered DONE, CRC-16. -/
def LinkResponse.frame (r : LinkResponse) : List Byte :=
  let body := r.status.code :: r.data
  body ++ toLE 2 (crc16 body).toNat

/-- The supply-space address of a request: bay, page, offset (R146). -/
def supplyBay (a : Addr24) : Bay := Fin.ofNat 8 (a.toNat / 1024)
def supplyPage (a : Addr24) : Nat := a.toNat % 1024 / 32
def supplyOffset (a : Addr24) : Nat := a.toNat % 32

/-! ### The profile image (R186) -/

/-- Byte `i` of an image; a flash that does not answer reads 0xFF (R166). -/
def imageByte (img : List Byte) (i : Nat) : Byte := img.getD i 0xFF#8

/-- The little-endian field of `n` bytes at offset `i`. -/
def imageField (img : List Byte) (i : Nat) : Nat → Nat
  | 0 => 0
  | n + 1 => (imageByte img i).toNat + 256 * imageField img (i + 1) n

def planeOf (img : List Byte) (i : Nat) : PlaneEntry :=
  let o := 0x018 + 8 * i
  { base := imageField img o 3, length := imageField img (o + 3) 4,
    bay := Fin.ofNat 8 (imageField img (o + 7) 1), enabled := (imageByte img (o + 7)).getLsbD 7 }

def baySettingsOf (img : List Byte) (b : Bay) : BaySettings :=
  let o := 0x098 + 12 * b.val
  { ink := imageByte img o, lowMark := imageField img (o + 1) 1, small := imageField img (o + 2) 2,
    medium := imageField img (o + 4) 2, large := imageField img (o + 6) 2, commitStep := imageField img (o + 8) 2,
    idleFlush := imageField img (o + 10) 2 }

/-- The action of code 0 to 2; a row with any other code fails RANGE (R167), so BLOCK for it reaches no block. -/
def actionOfCode : Nat → Action
  | 0 => .accept
  | 1 => .limit
  | _ => .block

def policyRowOf (img : List Byte) (i : Nat) : PolicyRow :=
  let o := 0x0F8 + 5 * i
  { action := actionOfCode (imageField img o 1), allowanceLU := imageField img (o + 1) 3,
    mark := (imageByte img (o + 4)).getLsbD 0 }

def planesOf (img : List Byte) : List PlaneEntry := (List.range 16).map (planeOf img)

/-- The fields of an image, whatever they hold. -/
def profileOf (img : List Byte) : Profile :=
  { makers := (List.range (min 4 (imageField img 0x002 1))).map fun i => imageField img (0x00C + 2 * i) 2,
    baud := imageField img 0x003 1, printerId := BitVec.ofNat 32 (imageField img 0x004 4),
    swathLimitMs := imageField img 0x008 2, saveInterval := imageField img 0x00A 1, margin := imageField img 0x00B 1,
    mask := BitVec.ofNat 32 (imageField img 0x014 4), planes := planesOf img,
    bays := Vector.ofFn (baySettingsOf img),
    policy := ⟨policyRowOf img 0, policyRowOf img 1, policyRowOf img 2, policyRowOf img 3, policyRowOf img 4⟩,
    keys := Vector.ofFn fun i : Fin 4 => BitVec.ofNat 128 (imageField img (0x111 + 16 * i.val) 16) }

/-- Bytes 0x000 to 0x150, which the CRC-32 covers. -/
def imageBody (img : List Byte) : List Byte := (List.range 0x151).map (imageByte img)

def crcFails (img : List Byte) : Bool := decide ((crc32 (imageBody img)).toNat ≠ imageField img 0x151 4)

def PlaneEntry.last (p : PlaneEntry) : Nat := p.base + p.length

/-- Two enabled entries cover a common address. -/
def PlaneEntry.overlaps (p q : PlaneEntry) : Bool :=
  p.enabled && q.enabled && decide (p.base < q.last) && decide (q.base < p.last)

/-- Some entry of the list overlaps a later one. -/
def anyOverlap : List PlaneEntry → Bool
  | [] => false
  | p :: ps => ps.any p.overlaps || anyOverlap ps

def planesFail (planes : List PlaneEntry) : Bool :=
  anyOverlap planes || planes.any fun p => p.enabled && (decide (p.last > 0x1000000) || p.length == 0)

def weightsFail (p : Profile) : Bool :=
  allBays.any fun b =>
    let w := p.bays[b]
    decide (w.small > w.medium) || decide (w.medium > w.large) ||
      (w.large == 0 && p.planes.any fun e => e.enabled && e.bay == b)

/-- R167's range table: `lo ≤ v ≤ hi`. -/
def within (lo v hi : Nat) : Bool := decide (lo ≤ v) && decide (v ≤ hi)

def rangeFails (img : List Byte) (p : Profile) : Bool :=
  !((allBays.all fun b =>
      within 1 p.bays[b].commitStep 10000 && within 5 p.bays[b].idleFlush 600 && within 0 p.bays[b].lowMark 100) &&
    within 0 p.margin 50 && within 100 p.swathLimitMs 10000 && within 1 p.saveInterval 255 &&
    within 0 (imageField img 0x002 1) 4 &&
    ((List.range 5).all fun i => within 0 (imageField img (0x0F8 + 5 * i) 1) 2) && within 0 p.baud 3)

/-- R167: the five checks in order; the first that fails gives the reason. -/
def profileFault (img : List Byte) : Option ProfileReason :=
  let p := profileOf img
  if crcFails img then some .crc
  else if imageField img 0x000 2 ≠ 1 then some .version
  else if planesFail p.planes then some .planes
  else if weightsFail p then some .weights
  else if rangeFails img p then some .range
  else none

/-- The line rate of a baud code (R156). -/
def baudRate : Nat → Nat
  | 0 => 57600
  | 1 => 115200
  | 2 => 230400
  | _ => 460800

/-- What stands where a block is asked for a profile field while it holds no copy. No block acts on one then
(notes/assumptions/34). -/
def Profile.blank : Profile := profileOf []

/-- The copies the blocks hold. -/
def State.profile (s : State) : Profile := s.copies.getD Profile.blank

/-- A key slot of all ones is empty (R29, R167). -/
def keyEmpty (k : BitVec 128) : Bool := k == BitVec.allOnes 128

end Sys2Proof.Machine
end

