-- ==== Sys2Proof/Machine/Flags.lean ====
section
/-! DEFINITION. What the part reports, having no status registers: the notice unit (chapter 9). Posting, coalescing,
QUEUE_FULL, the transmitter and the frames. -/

namespace Sys2Proof.Machine

/-! ### Kinds (R185) -/

def NoticeKind.code : NoticeKind → Nat
  | .ready => 0x01 | .profileBad => 0x02 | .registryTorn => 0x03 | .bayAdmitted => 0x04 | .bayRejected => 0x05
  | .bayDeparted => 0x06 | .refillVerdict => 0x07 | .allowanceSpent => 0x08 | .levelLow => 0x09 | .levelZero => 0x0A
  | .commitDone => 0x0B | .commitError => 0x0C | .countSpent => 0x0D | .tagFault => 0x0E | .markWritten => 0x0F
  | .marksFull => 0x10 | .markFailed => 0x11 | .poolStarved => 0x12 | .tallySaturated => 0x13 | .strayRead => 0x14
  | .swathSplit => 0x15 | .refusedWrite => 0x16 | .linkError => 0x17 | .registryFault => 0x18
  | .debtWrittenOff => 0x19 | .drained => 0x1A | .queueFull => 0x1B

/-- The mask bits of these four are ignored (R156). -/
def NoticeKind.unmaskable : NoticeKind → Bool
  | .ready | .profileBad | .drained | .queueFull => true
  | _ => false

/-- The posting is held back by the mask (R156); with no mask held every kind is queued (R155). -/
def NoticeUnit.masks (u : NoticeUnit) (k : NoticeKind) : Bool :=
  match u.mask with
  | none => false
  | some m => !k.unmaskable && !m.getLsbD (k.code - 1)

/-- The bay byte: 0 to 7, or 0x0F for the device. -/
def bayByte : Option Bay → Byte
  | some b => BitVec.ofNat 8 b.val
  | none => 0x0F#8

/-- The frame of a notice (R161, R185). -/
def Notice.frame (n : Notice) : List Byte :=
  let body := BitVec.ofNat 8 n.kind.code :: bayByte n.bay :: BitVec.ofNat 8 n.repeats ::
    BitVec.ofNat 8 n.payload.length :: n.payload
  0xA5#8 :: (body ++ [crc8 body])

/-- The bytes the transmitter is sending, fixed when the frame began (R161): none while IDLE. -/
def NoticeUnit.sendingFrame (u : NoticeUnit) : Option (List Byte) :=
  match u.transmitter, u.queue with
  | .sending _, n :: _ => some n.frame
  | _, _ => none

/-- The NOTICE line: at rest at its idle level, or carrying a frame at a line rate. -/
inductive NoticeLine where
  | resting
  | carrying (rate : Nat) (bits : List LineBit)
deriving DecidableEq, Repr

/-- R162: a frame's bits at the rate fixed when it began; with no frame the line rests. NOTICE_FRAME_SENT stands for the
last stop bit, so the frame that follows it begins without a rest. -/
def NoticeUnit.onLine (u : NoticeUnit) : NoticeLine :=
  match u.transmitter, u.sendingFrame with
  | .sending rate, some frame => .carrying rate (serialBits frame)
  | _, _ => .resting

/-! ### The queue -/

/-- A partner for coalescing: same kind, same bay, not sending (R157). -/
def Notice.partner (k : NoticeKind) (b : Option Bay) (n : Notice) : Bool :=
  n.kind == k && n.bay == b && !n.sending

/-- The first notice that satisfies `p` has its repeat count raised, saturating at 255. -/
def bumpFirst (p : Notice → Bool) : List Notice → List Notice
  | [] => []
  | n :: ns =>
    if p n then { n with repeats := min Config.countMax (n.repeats + 1) } :: ns else n :: bumpFirst p ns

/-- R161: an IDLE transmitter takes the head notice and fixes its frame. A POOL_STARVED takes its bay's starvation
count as payload and the pool sets that count to 0; a QUEUE_FULL clears the closed mark. -/
def beginFrame (s : State) : State :=
  match s.notices.transmitter, s.notices.queue with
  | .idle, n :: ns =>
    let unit := { s.notices with transmitter := .sending s.notices.rate,
                                 closed := if n.kind = NoticeKind.queueFull then false else s.notices.closed }
    match n.kind, n.bay with
    | .poolStarved, some b =>
      { s with notices := { unit with queue := { n with sending := true, payload := toLE 1 s.pool.starved[b] } :: ns },
               pool := { s.pool with starved := upd s.pool.starved b fun _ => 0 } }
    | _, _ => { s with notices := { unit with queue := { n with sending := true } :: ns } }
  | _, _ => s

/-- Append at the tail with repeat count 1, and begin the frame if the transmitter is IDLE (R158). -/
def appendNotice (k : NoticeKind) (b : Option Bay) (payload : List Byte) (s : State) : State :=
  beginFrame { s with notices := { s.notices with
    queue := s.notices.queue ++ [{ kind := k, bay := b, repeats := 1, payload := payload, sending := false }] } }

/-- R156 to R159: a posting is masked, coalesces, is discarded and counted, is appended, or is turned into
QUEUE_FULL. -/
def post (k : NoticeKind) (b : Option Bay) (payload : List Byte) (s : State) : State :=
  if s.notices.masks k then s
  else if s.notices.queue.any (Notice.partner k b) then
    { s with notices := { s.notices with queue := bumpFirst (Notice.partner k b) s.notices.queue } }
  else if s.notices.closed then
    { s with notices := { s.notices with queue := bumpFirst (Notice.partner .queueFull none) s.notices.queue } }
  else if s.notices.queue.length < 15 then appendNotice k b payload s
  else appendNotice .queueFull none [] { s with notices := { s.notices with closed := true } }

/-- R162: the notice whose frame has been sent leaves the queue, and the next frame begins if one remains. -/
def frameSent (s : State) : State :=
  match s.notices.transmitter with
  | .idle => s
  | .sending _ =>
    beginFrame { s with notices := { s.notices with queue := s.notices.queue.tail, transmitter := .idle } }

/-! ### Postings with their payloads (R185) -/

def postTagFault (b : Bay) (c : Claimant) (r : FaultReason) : State → State :=
  post .tagFault (some b) (toLE 1 c.code ++ toLE 1 r.code)

/-- The two volume fields of DEBT_WRITTEN_OFF are sent as at most 2^48 − 1 (R185). -/
def sixBytes (v : Nat) : List Byte := toLE 6 (min v (2 ^ 48 - 1))

def postWrittenOff (b : Option Bay) (amount total : Nat) : State → State :=
  post .debtWrittenOff b (sixBytes amount ++ sixBytes total)

end Sys2Proof.Machine
end

