-- ==== Sys2Proof/Machine/Registry.lean ====
section
/-! DEFINITION. The supply registry (chapter 6): write-offs, debt, lookup and eviction, the registry writer, and the
power-on load. -/

namespace Sys2Proof.Machine

/-! ### Checks (R103, R180) -/

/-- The bytes of a doubt record under the entry check; an absent one is one byte 0 (notes/assumptions/14). -/
def doubtBytes : Option DoubtRecord → List Byte
  | none => toLE 1 0
  | some d => toLE 1 1 ++ toLE 3 d.priorLevel ++ toLE 2 d.priorUse ++ toLE 3 d.expectedLevel ++ toLE 2 d.expectedUse ++
      toLE 8 d.total ++ toLE 4 d.overdraw

/-- The saved fields in the order R103 lists them, each little-endian in the fewest bytes that hold its range. R180 gives
the fields no widths and no byte values: valid is 1 or 0, the worst verdict and the action held are R184's codes, which
R184 states for tag pages and notices only. The model's choice (notes/assumptions/14). -/
def Saved.bytes (v : Saved) : List Byte :=
  toLE 1 v.valid.toNat ++ toLE 8 v.serial.toNat ++ toLE 3 v.capacity ++ toLE 3 v.lastLevel ++ toLE 2 v.lastUse ++
  toLE 4 v.residue ++ toLE 7 v.debt ++ toLE 3 v.overdraw ++ toLE 1 v.worst.code ++ toLE 1 v.held.code ++
  toLE 7 v.allowance ++ doubtBytes v.doubt ++ toLE 4 v.lastSeen

/-- The entry check: CRC-32 over the entry number and the saved fields (R180). -/
def entryCheck (e : EntryIx) (v : Saved) : BitVec 32 := crc32 (toLE 1 e.val ++ v.bytes)

/-- The header check: CRC-32 over the admission sequence and the written-off total (R105, R180). -/
def headerCheck (sequence writtenOff : Nat) : BitVec 32 := crc32 (toLE 4 sequence ++ toLE 8 writtenOff)

/-! ### Volume given up, and debt -/

/-- R105: a write-off adds to the written-off total, marks the header dirty and posts DEBT_WRITTEN_OFF; one of 0 fl does
nothing. -/
def writeOff (amount : Nat) (b : Option Bay) (s : State) : State :=
  if amount = 0 then s
  else
    let total := min Config.writtenOffMax (s.registry.header.writtenOff + amount)
    postWrittenOff b amount total (s.modHeader fun h => { h with writtenOff := total, dirty := true })

def markDirty (e : EntryIx) : State → State := State.modEntry e fun n => { n with dirty := true }

/-- R112: an addition to debt marks the entry dirty and writes off what passes 2^56 − 1, for bay `b`. -/
def addDebt (e : EntryIx) (v : Nat) (b : Option Bay) (s : State) : State :=
  let sum := s.registry.entries[e].saved.debt + v
  writeOff (sum - Config.volumeMax) b
    (s.modEntry e fun n => { n with saved := { n.saved with debt := min sum Config.volumeMax }, dirty := true })

/-- The bay an overflow on the entry is posted for: the one it owns, or the device (R105). -/
def State.bayOf (s : State) (e : EntryIx) : Option Bay := s.registry.entries[e].inBay

/-! ### Lookup, eviction, creation (R107 to R110) -/

/-- The entry whose write is in flight (R103, R115). -/
def Registry.inFlight (r : Registry) (e : EntryIx) : Bool :=
  match r.write with
  | some (.entry f _ _) => f == e
  | _ => false

/-- The header's write is in flight (R105). -/
def Registry.headerInFlight (r : Registry) : Bool :=
  match r.write with
  | some (.header _ _ _) => true
  | _ => false

/-- The valid entry that holds the serial. -/
def Registry.find (r : Registry) (serial : BitVec 64) : Option EntryIx :=
  allEntries.find? fun e => r.entries[e].saved.valid && r.entries[e].saved.serial == serial

/-- The lowest-numbered entry that is not valid. -/
def Registry.unused (r : Registry) : Option EntryIx := allEntries.find? fun e => !r.entries[e].saved.valid

/-- The three conditions of R108. -/
def State.evictable (s : State) (e : EntryIx) : Bool :=
  s.registry.entries[e].saved.valid && (s.registry.entries[e].inBay == none) && !s.registry.inFlight e &&
    !allBays.any fun b => s.tracker.owner[b] == some e

/-- The entry of least last seen among the given, the lowest-numbered on a tie (R108). -/
def leastSeen (r : Registry) : List EntryIx → Option EntryIx
  | [] => none
  | e :: es =>
    match leastSeen r es with
    | none => some e
    | some f => if r.entries[e].saved.lastSeen ≤ r.entries[f].saved.lastSeen then some e else some f

def State.evictionChoice (s : State) : Option EntryIx :=
  leastSeen s.registry (allEntries.filter s.evictable)

/-- What the cartridge's images bring to a lookup (R107). -/
structure LookupKey where
  serial : BitVec 64
  capacity : Nat
  level : Nat
  use : Nat
deriving DecidableEq, Repr

/-- R110: the entry is filled for a new cartridge and marked dirty. Last seen is set at the binding (R111). -/
def createEntry (e : EntryIx) (k : LookupKey) : State → State :=
  State.modEntry e fun n =>
    { n with
      saved := { valid := true, serial := k.serial, capacity := k.capacity, lastLevel := k.level, lastUse := k.use,
                 residue := 0, debt := 0, overdraw := 0, worst := .genuine, held := .accept, allowance := 0,
                 doubt := none, lastSeen := n.saved.lastSeen },
      dirty := true, commits := 0 }

/-- Every volume an entry holds (R108). -/
def Saved.volume (v : Saved) : Nat :=
  v.debt + v.residue + (match v.doubt with | some d => d.total | none => 0)

/-- R108: the entry's volumes are written off for the bay being admitted, and cleared. -/
def evict (e : EntryIx) (b : Bay) (s : State) : State :=
  (writeOff s.registry.entries[e].saved.volume (some b) s).modEntry e fun n =>
    { n with saved := { n.saved with debt := 0, residue := 0, doubt := none } }

inductive LookupAnswer where
  | found (e : EntryIx)
  | created (e : EntryIx)
  /-- The serial is in another bay (R109). -/
  | held
  /-- No entry can be given up. R108 says this never arises (notes/assumptions/29). -/
  | noEntry
deriving DecidableEq, Repr

/-- R107: the lookup of bay `b`, by the first row of its table. -/
def lookup (b : Bay) (k : LookupKey) (s : State) : State × LookupAnswer :=
  match s.registry.find k.serial with
  | some e =>
    if s.registry.entries[e].inBay = none then
      (s.modEntry e fun n => { n with saved := { n.saved with capacity := k.capacity } }, .found e)
    else (s, .held)
  | none =>
    match s.registry.unused with
    | some e => (createEntry e k s, .created e)
    | none =>
      match s.evictionChoice with
      | some e => (createEntry e k (evict e b s), .created e)
      | none => (s, .noEntry)

/-- A lookup is held: its bay joins the list, and TAG_FAULT SERIAL_IN_USE is posted for it (R109). -/
def holdLookup (b : Bay) (s : State) : State :=
  postTagFault b .admission .serialInUse
    { s with registry := { s.registry with heldLookups := s.registry.heldLookups ++ [b] } }

/-- A held bay that departs or is returned to EMPTY drops its lookup (R109). -/
def dropLookup (b : Bay) (s : State) : State :=
  { s with registry := { s.registry with heldLookups := s.registry.heldLookups.filter (· != b) } }

/-! ### The registry writer (R114 to R116) -/

/-- The entries in the writer's order: above the position first, then from 0 up to it (R114). -/
def Registry.turn (r : Registry) : List EntryIx :=
  allEntries.filter (fun e => decide (r.position < e)) ++ allEntries.filter (fun e => decide (e ≤ r.position))

def Registry.nextDirty (r : Registry) : Option EntryIx := r.turn.find? fun e => r.entries[e].dirty

inductive WriteTarget where
  | entry (e : EntryIx)
  | header
deriving DecidableEq, Repr

/-- R114's table; `afterEntry` says the write just completed was of an entry. -/
def Registry.choose (r : Registry) (afterEntry : Bool) : Option WriteTarget :=
  if r.header.dirty && afterEntry then some .header
  else match r.nextDirty with
    | some e => some (.entry e)
    | none => if r.header.dirty then some .header else none

/-- R115: the snapshot is taken, its check computed, the dirty flag cleared and the snapshot handed to the array. -/
def Registry.startWrite (r : Registry) : WriteTarget → Registry
  | .entry e =>
    let v := r.entries[e].saved
    { r with entries := upd r.entries e fun n => { n with dirty := false, check := entryCheck e v },
             write := some (.entry e v (entryCheck e v)), position := e }
  | .header =>
    let c := headerCheck r.header.sequence r.header.writtenOff
    { r with header := { r.header with dirty := false, check := c },
             write := some (.header r.header.sequence r.header.writtenOff c) }

/-- The writer runs while the part is READY or DRAIN (R114). -/
def PartState.writes : PartState → Bool
  | .ready | .drain => true
  | _ => false

/-- The writer's choice when no write is in flight. -/
def writerTurn (afterEntry : Bool) (s : State) : State :=
  if s.part.writes && s.registry.write.isNone then
    match s.registry.choose afterEntry with
    | some t => { s with registry := s.registry.startWrite t }
    | none => s
  else s

/-- The array's report on the write in flight (R115, R116), before the writer's next choice. A failed write leaves the old
content or a content whose check does not match (a free value, notes/assumptions/3). R116 does not say what valid flag
such a content shows; it is taken as torn, as with valid flag yes: the model's choice (notes/assumptions/15). -/
def writeReported (ok : Bool) (w : Snapshot) (s : State) : State :=
  let s := { s with registry := { s.registry with write := none } }
  match w with
  | .entry e v c =>
    if ok then { s with array := { s.array with slots := upd s.array.slots e fun _ => .stored v c } }
    else
      let torn := Config.failedWriteTears s.freeCount
      let s := { s with array := { s.array with slots := upd s.array.slots e fun old => if torn then .torn else old } }
      post .registryFault none (toLE 1 e.val) (markDirty e s.bumpFree)
  | .header q w c =>
    if ok then { s with array := { s.array with header := .stored q w c } }
    else
      let torn := Config.failedWriteTears s.freeCount
      let s := { s with array := { s.array with header := if torn then .torn else s.array.header } }
      post .registryFault none (toLE 1 255) (s.bumpFree.modHeader fun h => { h with dirty := true })

def Snapshot.ofEntry : Snapshot → Bool
  | .entry _ _ _ => true
  | .header _ _ _ => false

/-- What power leaves of the write it cuts off (R118). -/
def cutWrite (s : State) : StoredArray :=
  match s.registry.write with
  | none => s.array
  | some (.entry e v c) =>
    { s.array with slots := upd s.array.slots e fun old =>
        match Config.cutWrite s.freeCount with | .old => old | .new => .stored v c | .torn => .torn }
  | some (.header q w c) =>
    { s.array with header :=
        match Config.cutWrite s.freeCount with | .old => s.array.header | .new => .stored q w c | .torn => .torn }

/-! ### The power-on load (R117) -/

/-- A slot whose valid flag is yes and whose check matches, and which the array could read. -/
def slotMatches (a : StoredArray) (unreadable : List EntryIx) (e : EntryIx) : Option Saved :=
  match a.slots[e] with
  | .stored v c => if v.valid && c == entryCheck e v && !unreadable.contains e then some v else none
  | _ => none

/-- A slot that is discarded as torn: unreadable (R166), or its check does not match. -/
def slotTorn (a : StoredArray) (unreadable : List EntryIx) (e : EntryIx) : Bool :=
  unreadable.contains e ||
    match a.slots[e] with
    | .erased => false
    | .torn => true
    | .stored v c => v.valid && c != entryCheck e v

/-- Another matching slot holds the serial and is the one kept: greater last seen, or equal and lower-numbered. -/
def slotBeaten (a : StoredArray) (unreadable : List EntryIx) (e : EntryIx) (v : Saved) : Bool :=
  allEntries.any fun f =>
    match slotMatches a unreadable f with
    | some w => f != e && w.serial == v.serial &&
        (decide (v.lastSeen < w.lastSeen) || (v.lastSeen == w.lastSeen && decide (f < e)))
    | none => false

/-- The content of the slot that the load keeps. -/
def slotKept (a : StoredArray) (unreadable : List EntryIx) (e : EntryIx) : Option Saved :=
  match slotMatches a unreadable e with
  | some v => if slotBeaten a unreadable e v then none else some v
  | none => none

/-- The slot is discarded: torn, or beaten by another of the same serial. -/
def slotDiscarded (a : StoredArray) (unreadable : List EntryIx) (e : EntryIx) : Bool :=
  slotTorn a unreadable e ||
    ((slotMatches a unreadable e).isSome && (slotKept a unreadable e).isNone)

/-- The working entry the load builds. -/
def loadEntry (a : StoredArray) (unreadable : List EntryIx) (e : EntryIx) : Entry :=
  match slotKept a unreadable e with
  | some v => { Entry.blank with saved := v, check := entryCheck e v }
  | none => { Entry.blank with dirty := slotDiscarded a unreadable e }

/-- The greatest last seen among the loaded entries, or 0. -/
def greatestSeen (a : StoredArray) (unreadable : List EntryIx) : Nat :=
  allEntries.foldl (fun m e => match slotKept a unreadable e with | some v => max m v.lastSeen | none => m) 0

/-- The header's check does not match, or it could not be read (R166). -/
def headerTorn (a : StoredArray) (unreadable : Bool) : Bool :=
  unreadable ||
    match a.header with
    | .erased => false
    | .torn => true
    | .stored q w c => c != headerCheck q w

/-- R117: the header the load builds. R117 gives an erased or a torn header no working header check: it is 0, the model's
choice (notes/assumptions/13). -/
def loadHeader (a : StoredArray) (unreadable : List EntryIx) (headerUnreadable : Bool) : Header :=
  let least := greatestSeen a unreadable
  let fresh : Header := { sequence := least, writtenOff := 0, check := 0, dirty := true }
  if headerTorn a headerUnreadable then fresh
  else match a.header with
    | .stored q w c => { sequence := max q least, writtenOff := w, check := c, dirty := false }
    | _ => fresh

/-- How many slots, and the header, the load discards as torn or duplicate. -/
def discards (a : StoredArray) (unreadable : List EntryIx) (headerUnreadable : Bool) : Nat :=
  (allEntries.filter (slotDiscarded a unreadable)).length + (headerTorn a headerUnreadable).toNat

/-- R117: the working copy is built from the array and REGISTRY_TORN posted when anything was discarded. -/
def loadRegistry (unreadable : List EntryIx) (headerUnreadable : Bool) (s : State) : State :=
  let n := discards s.array unreadable headerUnreadable
  let s' := { s with registry :=
    { Registry.reset with entries := Vector.ofFn (loadEntry s.array unreadable),
                          header := loadHeader s.array unreadable headerUnreadable } }
  if n = 0 then s' else post .registryTorn none (toLE 1 n) s'

end Sys2Proof.Machine
end

