-- ==== Sys2Proof/Machine/Line.lean ====
section
/-! DEFINITION. The tag line units' claims, write screen and arbiter (R7, R11, R17, R18), and the proof engine's FIFO
(R38 to R40): what the claimants call. -/

namespace Sys2Proof.Machine

/-! ### The write screen (R7) -/

/-- Page, offset and length within the limits of R1. -/
def Claim.inRange (c : Claim) : Bool :=
  decide (c.page < 32) && decide (1 ≤ c.length) && decide (c.offset + c.length ≤ 32)

/-- The lock-word change of R7 and R150: bytes 28 to 31 only, and no bit from 0 to 1. -/
def lockWritePasses (marks : List Byte) (offset length : Nat) (data : List Byte) : Bool :=
  decide (28 ≤ offset) && decide (offset + length ≤ 32) && onlyClears data (slice marks offset length)

/-- The guard on an engine-controller write to pages 3 to 31, the same test at the link port and at the screen
(R7, R150). -/
def linkWritePasses (marks : List Byte) (page offset length : Nat) (data : List Byte) : Bool :=
  if page = 3 then lockWritePasses marks offset length data
  else decide (4 ≤ page) && unlocked marks page

/-- R7: the shapes a claim may have, against the bay's current images. -/
def screenPasses (ctx : BayContext) (c : Claim) : Bool :=
  match c.command with
  | .peek => c.inRange
  | .prove => c.inRange && c.claimant == .admission
  | .store =>
    match c.claimant with
    | .admission => false
    | .commit =>
      (match ctx.level with
       | some img => c.page == 2 && c.offset == 0 && c.length == 32 && pageUse c.data == pageUse img + 1 &&
           decide (pageLevel c.data ≤ pageLevel img)
       | none => false)
    | .mark =>
      (match ctx.marks with
       | some img => c.page == 3 && c.offset % 4 == 0 && decide (c.offset / 4 ≤ 6) && c.length == 4 &&
           markBlank img (c.offset / 4) && field c.data 0 1 != 0xFF
       | none => false)
    | .link =>
      (match ctx.marks with
       | some img => c.inRange && linkWritePasses img c.page c.offset c.length c.data
       | none => false)

/-! ### Serving a claim (R11, R18) -/

/-- A request is to be sent: its bytes start at once when the line has been quiet for 100 µs, and after the quiet wait
otherwise (R8). -/
def LineUnit.enterRequest (u : LineUnit) : LineUnit :=
  { u with state := .request, sending := u.quiet, quiet := false }

/-- The claim becomes the current transaction (R11). -/
def LineUnit.serve (c : Claim) (u : LineUnit) : LineUnit :=
  LineUnit.enterRequest
    { u with current := some { claim := c, phase := .first, isRepeat := false, retries := 0, storeSent := false,
                               limitPassed := false } }

/-- The claim R18 chooses, with the claims left waiting and the flag it leaves. -/
def LineUnit.nextClaim (u : LineUnit) : Option (Claim × Waiting × Bool) :=
  let w := u.waiting
  match w.admission, w.link, w.mark, w.commit with
  | some c, _, _, _ => some (c, { w with admission := none }, false)
  | none, some c, none, none => some (c, { w with link := none }, true)
  | none, some c, some m, _ =>
    if u.lastLink then some (m, { w with mark := none }, false) else some (c, { w with link := none }, true)
  | none, some c, none, some k =>
    if u.lastLink then some (k, { w with commit := none }, false) else some (c, { w with link := none }, true)
  | none, none, some m, _ => some (m, { w with mark := none }, false)
  | none, none, none, some k => some (k, { w with commit := none }, false)
  | none, none, none, none => none

/-- During DRAIN and DRAINED the arbiter starts no transaction (R20). -/
def PartState.startsLines : PartState → Bool
  | .drain | .drained => false
  | _ => true

/-- The arbiter at an IDLE line (R18). -/
def LineUnit.arbitrate (u : LineUnit) : LineUnit :=
  match u.state, u.nextClaim with
  | .idle, some (c, w, flag) => LineUnit.serve c { u with waiting := w, lastLink := flag }
  | _, _ => u

def arbitrate (b : Bay) (s : State) : State :=
  if s.part.startsLines then s.modLine b LineUnit.arbitrate else s

/-- The claim joins the waiting set under its claimant (R17). -/
def Waiting.join (c : Claim) (w : Waiting) : Waiting :=
  match c.claimant with
  | .admission => { w with admission := some c }
  | .commit => { w with commit := some c }
  | .mark => { w with mark := some c }
  | .link => { w with link := some c }

/-- R17: a claim for an EMPTY bay ends at once as ABANDONED; one that fails the screen ends at once as DENIED with
TAG_FAULT SCREENED; any other joins the waiting set, and an IDLE line's arbiter runs. The outcome is given where the
claim has ended at once. -/
def claimArrives (b : Bay) (c : Claim) (s : State) : State × Option LineOutcome :=
  if s.ctx[b].state = .empty then (s, some (.abandoned false))
  else if screenPasses s.ctx[b] c then
    (arbitrate b (s.modLine b fun u => { u with waiting := u.waiting.join c }), none)
  else (postTagFault b c.claimant .screened s, some .denied)

/-- The admission controller's claim (R28, R30, R32): its shape always passes the screen, and its bay is not EMPTY. -/
def admissionClaim (b : Bay) (cmd : TagCommand) (page len : Nat) (data : List Byte) (s : State) : State :=
  (claimArrives b { claimant := .admission, command := cmd, page := page, offset := 0, length := len, data := data } s).1

/-! ### Abandonment (R19) -/

/-- The line unit of a bay that enters EMPTY: IDLE, nothing waiting, the flag false, all timers stopped. -/
def LineUnit.abandon (u : LineUnit) : LineUnit :=
  { u with state := .idle, current := none, waiting := ⟨none, none, none, none⟩, lastLink := false,
           replyTimer := .stopped, pollTimer := .stopped, limitTimer := .stopped, sending := false }

/-- The store-sent flag that ABANDONED hands to the commit engine (R16, R19). -/
def LineUnit.commitStoreSent (u : LineUnit) : Bool :=
  match u.current with
  | some t => t.claim.claimant == .commit && t.storeSent
  | none => false

/-! ### The proof engine (R38 to R40) -/

/-- R39: a request joins the FIFO; an engine with nothing to do serves it at once. -/
def ProofEngine.enqueue (r : ProofRequest) (p : ProofEngine) : ProofEngine :=
  match p.service with
  | none => { p with service := some r }
  | some _ => { p with fifo := p.fifo ++ [r] }

def requestProof (b : Bay) (who : Requester) (inputs : ProofInputs) (s : State) : State :=
  { s with proof := s.proof.enqueue { bay := b, requester := who, inputs := inputs, cancelled := false } }

/-- R40: the bay's waiting request leaves the FIFO; its request in service runs on and its result is discarded. -/
def ProofEngine.cancel (b : Bay) (p : ProofEngine) : ProofEngine :=
  { p with fifo := p.fifo.filter (fun r => r.bay != b),
           service := p.service.map fun r => if r.bay = b then { r with cancelled := true } else r }

/-- The service time of a request (R38). -/
def ProofInputs.serviceUs : ProofInputs → Nat
  | .nonce => Config.nonceServiceUs
  | .proof _ _ _ => Config.proofServiceUs
  | .check _ _ _ _ _ => Config.checkServiceUs

/-- The key of a slot, from the profile's copy (R38). -/
def State.key (s : State) (slot : Fin 4) : BitVec 128 := s.profile.keys[slot]

/-- The key slot an identity image names, 0 to 3 once identification has passed (R2, R29). -/
def slotOf (identity : List Byte) : Fin 4 := Fin.ofNat 4 (pageKeySlot identity)

/-- R38: the result of a request. A nonce is the draw count, low byte first, and 12 random bytes. -/
def proofResult (s : State) : ProofInputs → List Byte
  | .nonce => toLE 4 s.proof.draws.toNat ++ toLE 12 (Config.randomSource s.freeCount).toNat
  | .proof slot serial nonce =>
    toLE 16 (Config.proofFunction (s.key slot) serial (BitVec.ofNat 128 (leNat nonce))).toNat
  | .check slot serial level use stamp =>
    toLE 8 (Config.checkFunction (s.key slot) serial (BitVec.ofNat 24 level) (BitVec.ofNat 16 use) stamp).toNat

/-- The engine after computing a request: a nonce advances the draw count and uses up one random draw (R38). -/
def proofComputed (i : ProofInputs) (s : State) : State :=
  match i with
  | .nonce => { s.bumpFree with proof := { s.proof with draws := s.proof.draws + 1 } }
  | .proof _ _ _ => s
  | .check _ _ _ _ _ => s

/-- The engine serves the request at the head of the FIFO, if there is one (R39). -/
def ProofEngine.advance (p : ProofEngine) : ProofEngine :=
  { p with service := p.fifo.head?, fifo := p.fifo.tail }

end Sys2Proof.Machine
end

