-- ==== Sys2Proof/Machine/Pool.lean ====
section
/-! DEFINITION. The debit pool (chapter 4): records linked into queues, diversions, carry, and folding. -/

namespace Sys2Proof.Machine

/-! ### Records and queues (R63 to R69) -/

/-- The link of record `r`, if there is one, is set to `next`. -/
def relink (records : Vector DebitRecord 64) (r : Option RecordIx) (next : Option RecordIx) : Vector DebitRecord 64 :=
  match r with
  | some r => upd records r fun d => { d with link := next }
  | none => records

/-- The records of `front` followed by those of `back`: the tail of one links to the head of the other (R68). -/
def joinQueues (front back : Queue) (records : Vector DebitRecord 64) : Queue × Vector DebitRecord 64 :=
  match front.head, back.head with
  | none, _ => (back, records)
  | some _, none => (front, records)
  | some h, some k =>
    ({ head := some h, tail := back.tail, count := front.count + back.count, total := front.total + back.total },
     relink records front.tail (some k))

/-- The swath number and volume of `n` records, reached from `r` by the links, cleared (R63, R68). -/
def clearChain : Nat → Option RecordIx → Vector DebitRecord 64 → Vector DebitRecord 64
  | 0, _, records => records
  | _, none, records => records
  | n + 1, some r, records =>
    clearChain n records[r].link (upd records r fun d => { d with swath := 0, volume := 0 })

/-- R66: the head record of FREE is removed. -/
def DebitPool.takeFree (p : DebitPool) : Option (RecordIx × DebitPool) :=
  match p.free.head with
  | none => none
  | some r =>
    let last := p.free.tail == some r
    some (r, { p with free := { p.free with head := if last then none else p.records[r].link,
                                            tail := if last then none else p.free.tail,
                                            count := p.free.count - 1 } })

/-- The taken record is filled; its link becomes end (R66). -/
def DebitPool.fill (r : RecordIx) (swath : BitVec 16) (volume : Nat) (p : DebitPool) : DebitPool :=
  { p with records := upd p.records r fun _ => { link := none, swath := swath, volume := volume } }

/-- R67: one filled record at the tail of PENDING[b]. -/
def DebitPool.pushTail (b : Bay) (r : RecordIx) (p : DebitPool) : DebitPool :=
  let one : Queue := { head := some r, tail := some r, count := 1, total := p.records[r].volume }
  let j := joinQueues p.pend[b] one p.records
  { p with pend := upd p.pend b fun _ => j.1, records := j.2 }

/-- PENDING[b] onto the tail of BATCH[b] (R69). -/
def DebitPool.pendToBatch (b : Bay) (p : DebitPool) : DebitPool :=
  let j := joinQueues p.batch[b] p.pend[b] p.records
  { p with batch := upd p.batch b fun _ => j.1, pend := upd p.pend b fun _ => Queue.empty, records := j.2 }

/-- BATCH[b] onto the head of PENDING[b] (R69). -/
def DebitPool.batchToPend (b : Bay) (p : DebitPool) : DebitPool :=
  let j := joinQueues p.batch[b] p.pend[b] p.records
  { p with pend := upd p.pend b fun _ => j.1, batch := upd p.batch b fun _ => Queue.empty, records := j.2 }

/-- A queue's records, cleared, onto the tail of FREE: FREE's total stays 0 (R68). -/
def DebitPool.release (q : Queue) (p : DebitPool) : DebitPool :=
  let j := joinQueues p.free { q with total := 0 } (clearChain q.count q.head p.records)
  { p with free := j.1, records := j.2 }

/-- BATCH[b] onto FREE (R69). -/
def DebitPool.batchToFree (b : Bay) (p : DebitPool) : DebitPool :=
  let p' := p.release p.batch[b]
  { p' with batch := upd p'.batch b fun _ => Queue.empty }

/-- PENDING[b] onto FREE, the last step of a fold (R69, R77). -/
def DebitPool.pendToFree (b : Bay) (p : DebitPool) : DebitPool :=
  let p' := p.release p.pend[b]
  { p' with pend := upd p'.pend b fun _ => Queue.empty }

/-! ### Carry (R70) -/

/-- R70: an addition to carry[b]; what passes 2^56 − 1 is written off for the bay. -/
def addCarry (b : Bay) (v : Nat) (s : State) : State :=
  let sum := s.pool.carry[b] + v
  writeOff (sum - Config.volumeMax) (some b)
    (s.modPool fun p => { p with carry := upd p.carry b fun _ => min sum Config.volumeMax })

/-! ### What a swath end brings (R72 to R74) -/

/-- The bay the entry is the owner of, by the bay contexts (R72). -/
def State.ownedBay (s : State) (e : EntryIx) : Option Bay := allBays.find? fun c => s.ctx[c].owner == some e

/-- R74: with FREE empty the tally goes to carry, the starvation count rises and POOL_STARVED is posted. -/
def starve (b : Bay) (tally : Nat) (s : State) : State :=
  post .poolStarved (some b) []
    ((addCarry b tally s).modPool fun p =>
      { p with starved := upd p.starved b fun n => min Config.countMax (n + 1) })

/-- R73 and R74: a tally for PENDING[b]. -/
def placeInPending (b : Bay) (swath : BitVec 16) (tally : Nat) (s : State) : State :=
  match s.pool.takeFree with
  | some (r, p) => { s with pool := (p.fill r swath tally).pushTail b r }
  | none => starve b tally s

/-- R72: where a handed-over tally goes, by the first row that applies. -/
def placeTally (b : Bay) (e : EntryIx) (swath : BitVec 16) (tally : Nat) (s : State) : State :=
  if s.part = .drain then addDebt e tally (s.bayOf e) s
  else if s.ctx[b].owner = some e then placeInPending b swath tally s
  else match s.ownedBay e with
    | some c => addCarry c tally s
    | none => addDebt e tally (s.bayOf e) s

/-! ### Folding (R77) -/

/-- What a fold on the bay moves: PENDING[b]'s total plus carry[b]; 0 for a bay without an owner (R77, R78). -/
def State.foldVolume (s : State) (b : Bay) : Nat :=
  match s.ctx[b].owner with
  | some _ => s.pool.pend[b].total + s.pool.carry[b]
  | none => 0

/-- R77: PENDING[b] and carry[b] leave the pool into the owner entry's debt. -/
def fold (b : Bay) (s : State) : State :=
  match s.ctx[b].owner with
  | none => s
  | some e =>
    (addDebt e (s.foldVolume b) (some b) s).modPool fun p =>
      let p' := p.pendToFree b
      { p' with carry := upd p'.carry b fun _ => 0 }

end Sys2Proof.Machine
end

