-- ==== Sys2Proof/Machine/Marks.lean ====
section
/-! DEFINITION. The mark writer (R133 to R136), and the two ways a bay context's state is changed from outside
admission: sticky faults (R36) and the verdict unit's action (R37). -/

namespace Sys2Proof.Machine

/-! ### The bay context changed by others -/

/-- The settled state of an action (R33, R37). -/
def Action.bayState : Action → BayState
  | .accept => .admitted
  | .limit => .limited
  | .block => .blocked

/-- R37: the verdict unit's new action. An EMPTY bay takes none; a FAULTED bay keeps its state. -/
def changeAction (b : Bay) (a : Action) : State → State :=
  State.modCtx b fun c =>
    if c.state.settled then { c with action := some a, state := a.bayState }
    else if c.state = .faulted ∧ c.owner ≠ none then { c with action := some a }
    else c

inductive StickyFault where
  | commitError | countSpent
deriving DecidableEq, Repr

def Sticky.add (f : StickyFault) (k : Sticky) : Sticky :=
  match f with
  | .commitError => { k with commitError := true }
  | .countSpent => { k with countSpent := true }

/-- R36: the fault joins the sticky faults of a settled or FAULTED bay, which is FAULTED from then on; a report for a
bay that has departed is ignored. -/
def stickyFault (b : Bay) (f : StickyFault) : State → State :=
  State.modCtx b fun c =>
    if c.state.settled || c.state == .faulted then { c with sticky := c.sticky.add f, state := .faulted } else c

/-! ### Stamps -/

def MarkWriter.becomeIdle (m : MarkWriter) : MarkWriter := { m with list := [], inHand := none }

/-- R134: the writer works through the kinds until one makes its claim, or becomes IDLE with the list empty. A claim
that the screen refuses ends as DENIED (R135). -/
def startStamps (b : Bay) : List Verdict → State → State
  | [], s => s.modMark b fun m => { m with list := [], inHand := none }
  | k :: ks, s =>
    let img := s.ctx[b].marks.getD []
    match lowestBlank img with
    | none => startStamps b ks (post .marksFull (some b) [] s)
    | some slot =>
      let claim : Claim :=
        { claimant := .mark, command := .store, page := 3, offset := 4 * slot, length := 4,
          data := markBytes k s.profile.printerId (pageUse (s.ctx[b].level.getD [])) }
      match claimArrives b claim (s.modMark b fun m => { m with list := ks, inHand := some (k, slot) }) with
      | (t, none) => t
      | (t, some (.abandoned _)) => t.modMark b MarkWriter.becomeIdle
      | (t, some _) => startStamps b ks (post .markFailed (some b) [] t)

/-- R133: the verdict unit asks for a stamp of kind `k` on bay `b`. -/
def requestStamp (b : Bay) (k : Verdict) (s : State) : State :=
  if s.part ≠ .ready then s
  else if s.ctx[b].owner = none then s
  else if holdsKind (s.ctx[b].marks.getD []) k then s
  else if s.marks[b].list.contains k || (s.marks[b].inHand.map Prod.fst == some k) then s
  else
    let list := s.marks[b].list ++ [k]
    if s.marks[b].inHand = none then startStamps b list s
    else s.modMark b fun m => { m with list := list }

/-- The writer after an outcome: the next kind while the part is READY, otherwise IDLE with an empty list (R135). -/
def nextStamp (b : Bay) (s : State) : State :=
  if s.part = .ready then startStamps b s.marks[b].list s else s.modMark b MarkWriter.becomeIdle

/-- The outcome of a mark claim (R135, R136). -/
def markOutcome (b : Bay) (c : Claim) (o : LineOutcome) (s : State) : State :=
  match o, s.marks[b].inHand with
  | .success _, some (k, slot) =>
    let s := s.modCtx b fun x => { x with marks := x.marks.map fun img => overwrite img (4 * slot) c.data }
    nextStamp b (post .markWritten (some b) (toLE 1 slot ++ toLE 1 k.code) s)
  | .abandoned _, _ => s.modMark b MarkWriter.becomeIdle
  | .withdrawn, _ => s.modMark b MarkWriter.becomeIdle
  | _, some _ => nextStamp b (post .markFailed (some b) [] s)
  | _, none => s

end Sys2Proof.Machine
end

