-- ==== Sys2Proof/Machine/Verdict.lean ====
section
/-! DEFINITION. The verdict unit (chapter 7): policy and ranks, doubt resolution, the refill checks, the combination,
allowance draws, and escalation while admitted. -/

namespace Sys2Proof.Machine

/-! ### Policy (R121, R122) -/

/-- Strength, weakest first (R121). -/
def Action.strength : Action → Nat
  | .accept => 0 | .limit => 1 | .block => 2

/-- The policy's row for a verdict; GENUINE has none (R122). -/
def Policy.row (p : Policy) : Verdict → Option PolicyRow
  | .genuine => none
  | .refilled => some p.refilled
  | .rolledBack => some p.rolledBack
  | .tampered => some p.tampered
  | .priorRefill => some p.priorRefill
  | .overdrawn => some p.overdrawn

/-- The action a verdict calls for; LIMIT with an allowance of 0 LU is BLOCK (R122). -/
def Policy.action (p : Policy) (v : Verdict) : Action :=
  match p.row v with
  | none => .accept
  | some r => if r.action = .limit ∧ r.allowanceLU = 0 then .block else r.action

/-- The allowance of the verdict's row, in fl. -/
def Policy.allowance (p : Policy) (v : Verdict) : Nat :=
  match p.row v with
  | none => 0
  | some r => r.allowanceLU * Config.flPerLU

/-- A stamp is called for: the mark flag is set and the verdict is not GENUINE or PRIOR_REFILL (R122, R129). -/
def Policy.marks (p : Policy) (v : Verdict) : Bool :=
  match v, p.row v with
  | .priorRefill, _ => false
  | _, some r => r.mark
  | _, none => false

/-- GENUINE ranks below every other verdict; the others rank by the strength of their action (R121). -/
def Policy.rank (p : Policy) : Verdict → Nat
  | .genuine => 0
  | v => 1 + (p.action v).strength

/-! ### Doubt resolution (R123, R124) -/

/-- The level image shows the page before the commit; every other page, when it is not the expected one, is taken as
landed (R123). -/
def notLanded (d : DoubtRecord) (level use : Nat) : Bool :=
  !(level == d.expectedLevel && use == d.expectedUse) && (level == d.priorLevel && use == d.priorUse)

/-- R95's test: the overdraw × 100 exceeds the capacity × the margin. -/
def overMargin (overdraw capacity margin : Nat) : Bool := decide (overdraw * 100 > capacity * margin)

/-- The overdraw count saturates at 16 777 215 (R92). -/
def addOverdraw (x e : Nat) : Nat := min Config.overdrawMax (x + e)

/-- R123: the entry's doubt record is resolved against the level image, for the bay being admitted. The second part says
whether OVERDRAWN arises (R124). -/
def resolveDoubt (b : Bay) (e : EntryIx) (level use : Nat) (s : State) : State × Bool :=
  let v := s.registry.entries[e].saved
  match v.doubt with
  | none => (s, false)
  | some d =>
    if notLanded d level use then
      ((addDebt e d.total (some b) s).modEntry e fun n => { n with saved := { n.saved with doubt := none }, dirty := true },
       false)
    else
      let o := addOverdraw v.overdraw d.overdraw
      (s.modEntry e fun n =>
        { n with saved := { n.saved with lastLevel := d.expectedLevel, lastUse := d.expectedUse,
                                         residue := d.total % Config.flPerLU, overdraw := o, doubt := none },
                 dirty := true },
       decide (0 < d.overdraw) && overMargin o v.capacity s.profile.margin)

/-! ### The refill checks (R125, R126) -/

/-- R125: the first check that holds gives the verdict. -/
def refillChecks (checkGood found : Bool) (marks : List Byte) (tagLevel tagUse capacity : Nat) (v : Saved) : Verdict :=
  if !checkGood then .tampered
  else if markSlots.any fun k => isRefillKind (markKind marks k) then .priorRefill
  else if found then
    if tagUse < v.lastUse then .rolledBack
    else if v.lastLevel < tagLevel then .refilled
    else if tagUse = v.lastUse ∧ tagLevel < v.lastLevel then .tampered
    else .genuine
  else if capacity < tagLevel then .tampered
  else .genuine

/-! ### Combination (R127) -/

/-- R127's table: the action held `h` with allowance `w`, and a verdict's action `a` with allowance `n`. -/
def combineAction (h : Action) (w : Nat) (a : Action) (n : Nat) : Action × Nat :=
  match h, a with
  | .accept, .accept => (.accept, w)
  | .accept, .limit => (.limit, n)
  | .limit, .accept => (.limit, w)
  | .limit, .limit => (.limit, min w n)
  | _, .block => (.block, w)
  | .block, _ => (.block, w)

/-- The worst verdict is replaced only by one that ranks stronger (R121). -/
def strongerWorst (p : Policy) (held v : Verdict) : Verdict := if p.rank held < p.rank v then v else held

/-- One verdict combined with the entry's history. -/
def combineSaved (p : Policy) (v : Verdict) (x : Saved) : Saved :=
  let c := combineAction x.held x.allowance (p.action v) (p.allowance v)
  { x with held := c.1, allowance := c.2, worst := strongerWorst p x.worst v }

/-- The combination on the entry, which is dirty whenever one of the three fields changes (R127, R130). -/
def combineEntry (p : Policy) (v : Verdict) (n : Entry) : Entry :=
  let x := combineSaved p v n.saved
  { n with saved := x, dirty := n.dirty || x != n.saved }

/-- The verdict reported by an admission: the stronger-ranked, on equal rank the checks' (R124). -/
def reportedVerdict (p : Policy) (checks : Verdict) (overdrawn : Bool) : Verdict :=
  if overdrawn then (if p.rank checks < p.rank .overdrawn then .overdrawn else checks) else checks

/-- The stamps an admission asks for, in order (R129). `worst` is the worst verdict after the combination. -/
def stampsAsked (p : Policy) (checks : Verdict) (overdrawn : Bool) (worst : Verdict) : List Verdict :=
  let reported := reportedVerdict p checks overdrawn
  let other := if reported = checks then Verdict.overdrawn else checks
  let first := if p.marks reported then [reported] else []
  let second := if overdrawn && checks != .overdrawn && p.marks other then [other] else []
  let third := if p.marks worst && !(first ++ second).contains worst then [worst] else []
  first ++ second ++ third

/-! ### Allowances (R128) -/

/-- R128: the tally is drawn from a LIMIT entry's allowance; a draw in DRAIN marks the entry dirty; one that takes the
allowance to 0 makes the action BLOCK, in the bay the entry owns too, and posts ALLOWANCE_SPENT for the counting
bay. Any other draw leaves the entry unmarked, its write in flight or not (notes/assumptions/40). -/
def drawAllowance (b : Bay) (e : EntryIx) (tally : Nat) (s : State) : State :=
  let v := s.registry.entries[e].saved
  if tally = 0 ∨ v.held ≠ .limit then s
  else
    let left := v.allowance - tally
    let s' := s.modEntry e fun n =>
      { n with saved := { n.saved with allowance := left }, dirty := n.dirty || s.part == .drain }
    if 0 < v.allowance ∧ left = 0 then
      let s'' := s'.modEntry e fun n => { n with saved := { n.saved with held := .block }, dirty := true }
      let s3 := match s''.ownedBay e with
        | some c => changeAction c .block s''
        | none => s''
      post .allowanceSpent (some b) [] s3
    else s'

/-! ### Escalation while admitted (R132) -/

/-- R132 step 2's condition. -/
def escalates (h : Action) (w : Nat) (a : Action) (n : Nat) : Bool :=
  decide (h.strength < a.strength) || (h == .limit && a == .limit && decide (n < w))

/-- The allowance REFILL_VERDICT reports, in LU. -/
def allowanceLU (v : Saved) : Nat := if v.held = .limit then v.allowance / Config.flPerLU else 0

/-- R132: OVERDRAWN from a successful commit on bay `b` whose owner is `e`. -/
def escalate (b : Bay) (e : EntryIx) (s : State) : State :=
  let p := s.profile.policy
  let v := s.registry.entries[e].saved
  let a := p.action .overdrawn
  let n := p.allowance .overdrawn
  let worst := strongerWorst p v.worst .overdrawn
  let up := escalates v.held v.allowance a n
  let allowance := if a = .limit then (if v.held = .limit then min v.allowance n else n) else v.allowance
  let s1 := if worst = v.worst ∧ up = false then s
    else
      let v' := { v with worst := worst, held := if up then a else v.held,
                         allowance := if up then allowance else v.allowance }
      let t := s.modEntry e fun x => { x with saved := v', dirty := true }
      let t := if up then changeAction b a t else t
      post .refillVerdict (some b) (toLE 1 Verdict.overdrawn.code ++ toLE 1 v'.held.code ++ toLE 3 (allowanceLU v')) t
  if p.marks .overdrawn then requestStamp b .overdrawn s1 else s1

end Sys2Proof.Machine
end

