-- ==== Sys2Proof/Machine/Commit.lean ====
section
/-! DEFINITION. The commit engine (chapter 5): when a commit is due, its start, its write, and its six settlements. -/

namespace Sys2Proof.Machine

/-! ### When a commit is due (R84) -/

/-- The volume that waits for the bay's next commit: PENDING[b]'s total plus carry[b]. -/
def State.waitingVolume (s : State) (b : Bay) : Nat := s.pool.pend[b].total + s.pool.carry[b]

/-- R84's step test. -/
def stepDue (s : State) (b : Bay) (e : EntryIx) : Bool :=
  decide (s.profile.bays[b].commitStep * Config.flPerLU ≤ s.waitingVolume b + s.registry.entries[e].saved.residue)

/-- R84's idle-flush test. -/
def flushDue (s : State) (b : Bay) : Bool :=
  s.tracker.state != .openSwath && s.commits[b].flush == .elapsed && decide (0 < s.waitingVolume b)

/-- R84. The owner is the entry whose residue the step test counts; a settled bay has one (R35). -/
def commitDue (s : State) (b : Bay) : Option EntryIx :=
  if s.ctx[b].state.settled && !s.ctx[b].sticky.any && s.commits[b].state == .idle && s.part == .ready then
    match s.ctx[b].owner with
    | some e => if stepDue s b e || flushDue s b then some e else none
    | none => none
  else none

/-! ### Commit start (R86 to R89) -/

/-- A settlement's return to IDLE: every field of the batch is cleared, the idle-flush timer and low posted stand
(R92 step 8, notes/assumptions/37). -/
def CommitContext.settle (c : CommitContext) : CommitContext :=
  { CommitContext.reset with flush := c.flush, lowPosted := c.lowPosted }

/-- R86 steps 1 to 5: the batch is formed. The residue leaves the entry unmarked, its write in flight or not
(notes/assumptions/40). -/
def formBatch (b : Bay) (e : EntryIx) (s : State) : State :=
  let carry := s.pool.carry[b]
  let residue := s.registry.entries[e].saved.residue
  let img := s.ctx[b].level.getD []
  let s1 := s.modPool fun p =>
    let p' := p.pendToBatch b
    { p' with carry := upd p'.carry b fun _ => 0 }
  let total := s1.pool.batch[b].total + carry + residue
  (s1.modEntry e fun n => { n with saved := { n.saved with residue := 0 } }).modCommit b fun c =>
    { c with batchCarry := carry, batchResidue := residue, total := total, charged := total / Config.flPerLU,
             newResidue := total % Config.flPerLU, priorLevel := pageLevel img, priorUse := pageUse img }

/-- R87: the owner's residue becomes T and the batch's records go to FREE. R113 does not mark the entry for it, and the
model does not mark it while the entry's write is in flight either (notes/assumptions/40). -/
def absorb (b : Bay) (e : EntryIx) (s : State) : State :=
  let total := s.commits[b].total
  ((s.modEntry e fun n => { n with saved := { n.saved with residue := total } }).modPool fun p => p.batchToFree b).modCommit
    b CommitContext.settle

/-- R88, R97 and R98, steps 1 to 3: the batch goes back to PENDING[b], carry[b] and the entry's residue, and the commit
state becomes IDLE. The residue comes back unmarked, the entry's write in flight or not (notes/assumptions/40). -/
def returnBatch (b : Bay) (e : EntryIx) (s : State) : State :=
  let c := s.commits[b]
  let s1 := addCarry b c.batchCarry (s.modPool fun p => p.batchToPend b)
  (s1.modEntry e fun n => { n with saved := { n.saved with residue := n.saved.residue + c.batchResidue } }).modCommit b
    CommitContext.settle

/-- R88: the use count has no value left above it. -/
def refuseCountSpent (b : Bay) (e : EntryIx) (s : State) : State :=
  post .countSpent (some b) [] (stickyFault b .countSpent (returnBatch b e s))

/-- R89: the level page is planned and its check code requested. -/
def planWrite (b : Bay) (s : State) : State :=
  let c := s.commits[b]
  let id := s.ctx[b].identity.getD []
  requestProof b .commit
    (.check (slotOf id) (pageSerial id) (c.priorLevel - c.charged) (c.priorUse + 1) s.profile.printerId)
    (s.modCommit b fun c =>
      { c with newLevel := c.priorLevel - c.charged, excess := c.charged - c.priorLevel, newUse := c.priorUse + 1,
               state := .provingCode })

/-- R86: one commit start on bay `b` whose owner is `e`. -/
def commitStart (b : Bay) (e : EntryIx) (s : State) : State :=
  let s1 := formBatch b e s
  if s1.commits[b].charged = 0 then absorb b e s1
  else if s1.commits[b].priorUse = 65535 then refuseCountSpent b e s1
  else planWrite b s1

/-- R85: the judgement, and the start when it comes out true. -/
def judge (b : Bay) (s : State) : State :=
  match commitDue s b with
  | some e => commitStart b e s
  | none => s

/-! ### Settling a commit (R92 to R97, R101) -/

/-- The swath numbers of the records at the head and the tail of BATCH[b], 0 when it holds none (R96). -/
def batchSwaths (p : DebitPool) (b : Bay) : Nat × Nat :=
  match p.batch[b].head, p.batch[b].tail with
  | some h, some t => (p.records[h].swath.toNat, p.records[t].swath.toNat)
  | _, _ => (0, 0)

/-- R93: the commit is counted on the owner entry. Below the save interval the entry is not marked dirty, its write in
flight or not (notes/assumptions/40). -/
def countCommit (interval : Nat) (drain : Bool) (n : Entry) : Entry :=
  let n' := if interval ≤ n.commits + 1 then { n with commits := 0, dirty := true } else { n with commits := n.commits + 1 }
  if drain then { n' with dirty := true } else n'

/-- R94: the low mark of the bay, from the identity image's capacity. -/
def lowMark (s : State) (b : Bay) : Nat :=
  pageCapacity (s.ctx[b].identity.getD []) * s.profile.bays[b].lowMark / 100

/-- R94: LEVEL_LOW, then LEVEL_ZERO. -/
def levelNotices (b : Bay) (s : State) : State :=
  let c := s.commits[b]
  let s1 := if c.newLevel < lowMark s b ∧ c.lowPosted = false then
      post .levelLow (some b) (toLE 3 c.newLevel) (s.modCommit b fun c => { c with lowPosted := true })
    else s
  if c.newLevel = 0 ∧ 0 < c.priorLevel then post .levelZero (some b) [] s1 else s1

/-- R95: OVERDRAWN is handed to the verdict unit when the overdraw passes the margin. -/
def overdrawTest (b : Bay) (e : EntryIx) (s : State) : State :=
  if 0 < s.commits[b].excess ∧
      overMargin s.registry.entries[e].saved.overdraw (pageCapacity (s.ctx[b].identity.getD [])) s.profile.margin then
    escalate b e s
  else s

/-- COMMIT_DONE's payload (R96, R185). -/
def commitDonePayload (level use count : Nat) (swaths : Nat × Nat) : List Byte :=
  toLE 3 level ++ toLE 2 use ++ toLE 1 count ++ toLE 2 swaths.1 ++ toLE 2 swaths.2

/-- R92 steps 1 to 3: the image and the owner entry take the commit, and the batch's records go to FREE. -/
def chargeTag (b : Bay) (e : EntryIx) (s : State) : State :=
  let c := s.commits[b]
  (((s.modCtx b fun x => { x with level := c.pageData }).modEntry e fun n =>
      { n with saved := { n.saved with lastLevel := c.newLevel, lastUse := c.newUse, residue := c.newResidue,
                                       overdraw := addOverdraw n.saved.overdraw c.excess } }).modPool
    fun p => p.batchToFree b).modCommit b fun c => { c with batchCarry := 0, batchResidue := 0 }

/-- R92. -/
def commitSuccess (b : Bay) (e : EntryIx) (s : State) : State :=
  let c := s.commits[b]
  let swaths := batchSwaths s.pool b
  let count := s.pool.batch[b].count
  let s1 := (chargeTag b e s).modEntry e (countCommit s.profile.saveInterval (s.part == .drain))
  let s2 := overdrawTest b e (levelNotices b s1)
  let s3 := post .commitDone (some b) (commitDonePayload c.newLevel c.newUse count swaths) s2
  judge b (s3.modCommit b CommitContext.settle)

/-- The pool folds the bay again while the part is DRAIN (R79, R101). -/
def refold (b : Bay) (s : State) : State := if s.part = .drain then fold b s else s

/-- R97, with the refold of R101. -/
def commitFailure (b : Bay) (e : EntryIx) (r : FaultReason) (s : State) : State :=
  refold b (post .commitError (some b) (toLE 1 r.code) (stickyFault b .commitError (returnBatch b e s)))

/-- R101: a commit withdrawn at drain. -/
def commitWithdrawn (b : Bay) (e : EntryIx) (s : State) : State := refold b (returnBatch b e s)

/-- The outcome of the commit's STORE. ABANDONED is settled in the departure act (R98, R99). -/
def commitOutcome (b : Bay) (o : LineOutcome) (s : State) : State :=
  match s.ctx[b].owner with
  | none => s
  | some e =>
    match o with
    | .success _ => commitSuccess b e s
    | .denied => commitFailure b e .denied s
    | .programFailed => commitFailure b e .programFailed s
    | .silent => commitFailure b e .silent s
    | .garbled => commitFailure b e .garbled s
    | .abandoned _ => s
    | .withdrawn => commitWithdrawn b e s

/-- R90, and R101 for a check code that arrives in DRAIN. In any other commit state the code is discarded. -/
def checkCodeArrives (b : Bay) (code : List Byte) (s : State) : State :=
  let c := s.commits[b]
  match c.state, s.ctx[b].owner with
  | .provingCode, some e =>
    if s.part = .ready then
      let page := levelPage c.newLevel c.newUse s.profile.printerId code
      let claim : Claim := { claimant := .commit, command := .store, page := 2, offset := 0, length := 32, data := page }
      match claimArrives b claim (s.modCommit b fun c => { c with pageData := some page, state := .storing }) with
      | (t, none) => t
      | (t, some o) => commitOutcome b o t
    else commitWithdrawn b e s
  | _, _ => s

/-- R91: the commit's STORE request has been sent whole. -/
def commitStoreSent (b : Bay) : State → State :=
  State.modCommit b fun c => if c.state = .storing then { c with state := .polling } else c

/-! ### Abandonment (R98, R99) -/

/-- R99: the owner takes a doubt record and the batch's records go to FREE. -/
def abandonInDoubt (b : Bay) (e : EntryIx) (s : State) : State :=
  let c := s.commits[b]
  ((s.modEntry e fun n =>
      { n with saved := { n.saved with doubt := some { priorLevel := c.priorLevel, priorUse := c.priorUse,
                                                       expectedLevel := c.newLevel, expectedUse := c.newUse,
                                                       total := c.total, overdraw := c.excess } },
               dirty := true }).modPool fun p => p.batchToFree b).modCommit b CommitContext.settle

/-- The commit in flight of a departing bay is settled; the second part is the doubt flag that BAY_DEPARTED carries. -/
def abandonCommit (b : Bay) (storeSent : Bool) (s : State) : State × Bool :=
  match s.ctx[b].owner with
  | none => (s, false)
  | some e =>
    if s.commits[b].state = .idle then (s, false)
    else if storeSent then (abandonInDoubt b e s, true)
    else (returnBatch b e s, false)

/-! ### The idle-flush timer (R83) -/

/-- Towards the bay's idle-flush time, in units of 100 ms. -/
def startFlush (b : Bay) (s : State) : State :=
  s.modCommit b fun c => { c with flush := .running (s.profile.bays[b].idleFlush * 100000) }

def stopFlush (b : Bay) : State → State := State.modCommit b fun c => { c with flush := .stopped }

/-- R83: the running timer reaches the idle-flush time, and R84 is judged. -/
def flushElapsed (b : Bay) (s : State) : State :=
  match s.commits[b].flush with
  | .running _ => judge b (s.modCommit b fun c => { c with flush := .elapsed })
  | _ => s

end Sys2Proof.Machine
end

