-- ==== Sys2Proof/Machine/Admission.lean ====
section
/-! DEFINITION. The admission controller (chapter 2): presence, identification, proof, checking and its completion. -/

namespace Sys2Proof.Machine

/-! ### Entering a state -/

/-- R23: the bay enters SETTLING and the settle timer starts. -/
def enterSettling (b : Bay) : State → State :=
  State.modCtx b fun c => { c with state := .settling, settle := .running Config.settleUs }

/-- R28: the bay enters IDENTIFYING and claims its line for page 0. -/
def enterIdentifying (b : Bay) (s : State) : State :=
  admissionClaim b .peek 0 32 []
    (s.modCtx b fun c => { c with state := .identifying, settle := .stopped, awaitLine := true })

/-- The held results and the nonce are dropped and nothing is awaited (R31, notes/assumptions/24). -/
def BayContext.dropHeld (c : BayContext) : BayContext :=
  { c with nonce := none, awaitLine := false, awaitProof := false, heldPage := none, heldProve := none,
           heldExpected := none, heldCheck := none }

/-- FAULTED with reason NO_RESPONSE (R28, R31, R32). -/
def noResponse (b : Bay) : State → State :=
  State.modCtx b fun c => { c.dropHeld with state := .faulted }

/-- REJECTED (R29, R31): BAY_REJECTED carries the reason. -/
def reject (b : Bay) (r : RejectReason) (s : State) : State :=
  post .bayRejected (some b) (toLE 1 r.code) (s.modCtx b fun c => { c.dropHeld with state := .rejected })

/-- R30 phase 1: a nonce is requested. -/
def beginAttempt (b : Bay) (s : State) : State :=
  requestProof b .admission .nonce (s.modCtx b fun c => { c.dropHeld with state := .proving, awaitProof := true })

/-- R30: PROVING entered from IDENTIFYING. -/
def enterProving (b : Bay) (s : State) : State := beginAttempt b (s.modCtx b fun c => { c with attempts := 0 })

/-- R32: CHECKING entered, the line claimed for page 2. -/
def enterChecking (b : Bay) (s : State) : State :=
  admissionClaim b .peek 2 32 [] (s.modCtx b fun c => { c.dropHeld with state := .checking, awaitLine := true })

/-! ### Identification (R28, R29) -/

/-- R29's checks in order; the first that fails gives the reason. -/
def identificationFault (p : Profile) (b : Bay) (id : List Byte) : Option RejectReason :=
  if id.all (· == 0xFF#8) then some .blank
  else if pageFormat id ≠ 1 then some .foreign
  else if !p.makers.contains (pageMaker id) then some .foreign
  else if pageInk id ≠ p.bays[b].ink then some .wrongInk
  else if 3 < pageKeySlot id || keyEmpty p.keys[slotOf id] then some .keyUnknown
  else if pageCapacity id = 0 then some .foreign
  else none

def identificationChecks (b : Bay) (id : List Byte) (s : State) : State :=
  match identificationFault s.profile b id with
  | some r => reject b r s
  | none => enterProving b s

/-- The outcome of an identity PEEK (R28). -/
def identityPeek (b : Bay) (page : Nat) (o : LineOutcome) (s : State) : State :=
  match o, s.ctx[b].heldPage with
  | .success d, held =>
    if page = 0 then admissionClaim b .peek 1 32 [] (s.modCtx b fun c => { c with heldPage := some d })
    else
      let id := held.getD [] ++ d
      identificationChecks b id
        (s.modCtx b fun c => { c with identity := some id, heldPage := none, awaitLine := false })
  | .abandoned _, _ => s
  | .withdrawn, _ => s
  | _, _ => noResponse b s

/-! ### Proof (R30, R31) -/

/-- R30 phase 2: the nonce has arrived; the two requests are made together. -/
def nonceArrives (b : Bay) (nonce : List Byte) (s : State) : State :=
  let id := s.ctx[b].identity.getD []
  requestProof b .admission (.proof (slotOf id) (pageSerial id) nonce)
    (admissionClaim b .prove 0 16 nonce
      (s.modCtx b fun c => { c with nonce := some nonce, awaitLine := true, awaitProof := true }))

/-- R31: a failed attempt. -/
def failedAttempt (b : Bay) (s : State) : State :=
  let n := s.ctx[b].attempts + 1
  let s1 := s.modCtx b fun c => { c.dropHeld with attempts := n }
  if 2 ≤ n then reject b .counterfeit s1 else beginAttempt b s1

/-- R31: made when both results are held (R30). -/
def settleProof (b : Bay) (s : State) : State :=
  match s.ctx[b].heldProve, s.ctx[b].heldExpected with
  | some r, some x => if r = .response x then enterChecking b s else failedAttempt b s
  | _, _ => s

/-- The outcome of a PROVE (R31); a line failure needs no expected response. -/
def proveOutcome (b : Bay) (o : LineOutcome) (s : State) : State :=
  let hold (r : ProveResult) : State :=
    settleProof b (s.modCtx b fun c => { c with heldProve := some r, awaitLine := false })
  match o with
  | .success d => hold (.response d)
  | .programFailed => hold .failed
  | .denied => hold .failed
  | .silent => noResponse b s
  | .garbled => noResponse b s
  | .abandoned _ => s
  | .withdrawn => s

/-- The expected response has arrived (R30). -/
def expectedArrives (b : Bay) (x : List Byte) (s : State) : State :=
  settleProof b (s.modCtx b fun c => { c with heldExpected := some x, awaitProof := false })

/-! ### Completing checking (R33) -/

/-- R33 steps 1 to 3: the owner is bound, any doubt resolved, the checks run and combined, the bay settled. The second
part is the checks' verdict and whether OVERDRAWN arose. -/
def judgeCartridge (b : Bay) (e : EntryIx) (found checkGood : Bool) (id level marks : List Byte) (s : State) :
    State × Verdict × Bool :=
  let p := s.profile.policy
  let r := resolveDoubt b e (pageLevel level) (pageUse level) (s.modCtx b fun c => { c with owner := some e })
  let v := refillChecks checkGood found marks (pageLevel level) (pageUse level) (pageCapacity id)
    r.1.registry.entries[e].saved
  let s1 := r.1.modEntry e fun n =>
    let n' := combineEntry p v n
    if r.2 then combineEntry p .overdrawn n' else n'
  let a := s1.registry.entries[e].saved.held
  (s1.modCtx b fun c => { c.dropHeld with action := some a, state := a.bayState }, v, r.2)

/-- R111: the debt moves into carry, and the entry is bound to the bay. -/
def bindEntry (b : Bay) (e : EntryIx) (s : State) : State :=
  let debt := s.registry.entries[e].saved.debt
  let s1 := addCarry b debt (s.modEntry e fun n => { n with saved := { n.saved with debt := 0 } })
  let seq := min Config.sequenceMax (s1.registry.header.sequence + 1)
  (s1.modEntry e fun n => { n with inBay := some b, saved := { n.saved with lastSeen := seq }, dirty := true }).modHeader
    fun h => { h with sequence := seq, dirty := true }

/-- BAY_ADMITTED's payload (R185). -/
def admittedPayload (v : Verdict) (a : Action) (level : Nat) : List Byte :=
  toLE 1 v.code ++ toLE 1 a.code ++ toLE 3 level

/-- R33: the rest of the completion act once the lookup has answered with entry `e`; a commit due on the debt brought
back is judged last (R85, notes/assumptions/21). -/
def completeAdmission (b : Bay) (e : EntryIx) (found checkGood : Bool) (id level marks : List Byte) (s : State) : State :=
  let p := s.profile.policy
  let j := judgeCartridge b e found checkGood id level marks s
  let s1 := bindEntry b e j.1
  let x := s1.registry.entries[e].saved
  let s2 := post .bayAdmitted (some b)
    (admittedPayload (reportedVerdict p j.2.1 j.2.2) x.held (pageLevel level)) s1
  judge b ((stampsAsked p j.2.1 j.2.2 x.worst).foldl (fun t k => requestStamp b k t) s2)

/-- R33: the completion act, when the marks image and the comparison are both held. A lookup that the registry holds
leaves the bay in CHECKING (R109). -/
def checkingComplete (b : Bay) (s : State) : State :=
  match s.ctx[b].identity, s.ctx[b].level, s.ctx[b].marks, s.ctx[b].heldCheck with
  | some id, some level, some marks, some good =>
    match lookup b { serial := pageSerial id, capacity := pageCapacity id, level := pageLevel level,
                     use := pageUse level } s with
    | (s1, .found e) => completeAdmission b e true good id level marks s1
    | (s1, .created e) => completeAdmission b e false good id level marks s1
    | (s1, .held) => holdLookup b s1
    | (s1, .noEntry) => s1
  | _, _, _, _ => s

/-- The outcome of a checking PEEK (R32). -/
def checkingPeek (b : Bay) (page : Nat) (o : LineOutcome) (s : State) : State :=
  match o with
  | .success d =>
    if page = 2 then
      let id := s.ctx[b].identity.getD []
      requestProof b .admission (.check (slotOf id) (pageSerial id) (pageLevel d) (pageUse d) (pageStamp d))
        (admissionClaim b .peek 3 32 []
          (s.modCtx b fun c => { c with level := some d, awaitLine := true, awaitProof := true }))
    else checkingComplete b (s.modCtx b fun c => { c with marks := some d, awaitLine := false })
  | .abandoned _ => s
  | .withdrawn => s
  | _ => noResponse b s

/-- The check result has arrived; the comparison is held (R32). -/
def checkArrives (b : Bay) (code : List Byte) (s : State) : State :=
  let good := decide (code = pageCheck (s.ctx[b].level.getD []))
  checkingComplete b (s.modCtx b fun c => { c with heldCheck := some good, awaitProof := false })

/-! ### What the line and the proof engine hand to admission -/

/-- An admission claim's outcome, by the bay's state (R28, R31, R32). -/
def admissionOutcome (b : Bay) (c : Claim) (o : LineOutcome) (s : State) : State :=
  match s.ctx[b].state with
  | .identifying => identityPeek b c.page o s
  | .proving => proveOutcome b o s
  | .checking => checkingPeek b c.page o s
  | _ => s

/-- A proof-engine result for admission; one that the bay's state does not wait for is discarded (R31, R32, R40). -/
def admissionResult (b : Bay) (inputs : ProofInputs) (result : List Byte) (s : State) : State :=
  if s.ctx[b].awaitProof then
    match s.ctx[b].state, inputs with
    | .proving, .nonce => nonceArrives b result s
    | .proving, .proof _ _ _ => expectedArrives b result s
    | .checking, .check _ _ _ _ _ => checkArrives b result s
    | _, _ => s
  else s

/-- R109: the lookup held first for the serial is answered, now that its entry's in-bay is none. -/
def answerHeld (serial : BitVec 64) (s : State) : State :=
  match s.registry.heldLookups.find? fun b => pageSerial (s.ctx[b].identity.getD []) == serial with
  | some b => checkingComplete b (dropLookup b s)
  | none => s

/-! ### Presence (R22 to R25) -/

/-- R22, R23, R24, R25: the presence line of bay `b` is asserted. -/
def presenceRises (b : Bay) (s : State) : State :=
  let c := s.ctx[b]
  if c.state = .empty then (if s.part = .ready then enterSettling b s else s)
  else if s.part ≠ .ready ∧ s.part ≠ .drain then s
  else if c.absence = .stopped then s
  else if c.state = .settling then
    s.modCtx b fun c => { c with absence := .stopped, settle := .running Config.settleUs }
  else s.modCtx b fun c => { c with absence := .stopped }

/-- R22, R24, R25: the presence line of bay `b` drops. -/
def presenceDrops (b : Bay) (s : State) : State :=
  if s.ctx[b].state = .empty ∨ (s.part ≠ .ready ∧ s.part ≠ .drain) then s
  else s.modCtx b fun c => { c with settle := .stopped, absence := .running Config.absenceUs }

/-- R24: the settle timer reaches 50 ms. -/
def settleExpires (b : Bay) (s : State) : State :=
  match s.ctx[b].state, s.ctx[b].settle with
  | .settling, .running _ => enterIdentifying b s
  | _, _ => s

end Sys2Proof.Machine
end

