-- ==== Sys2Proof/Machine/SwathMemory.lean ====
section
/-! DEFINITION. The fire port, the drop meter, and the swath memory port with its arbiter (chapter 3, R41 to R46 and
R58 to R61). -/

namespace Sys2Proof.Machine

/-! ### The arbiter (R59, R60) -/

/-- The head of the fire port's waiting bursts is served. -/
def serveFire (run : Nat) (s : State) : State :=
  match s.fire.waiting with
  | [] => s
  | f :: fs => { s with fire := { s.fire with service := some f, waiting := fs },
                        port := { s.port with use := .fire, runCount := run } }

/-- The waiting link burst is served; the run count returns to 0. -/
def serveLink (l : LinkBurst) (s : State) : State :=
  { s with port := { s.port with use := .link, linkClaim := none, linkService := some l, runCount := 0 } }

/-- R60's table at an IDLE port. -/
def arbServe (s : State) : State :=
  if s.port.use ≠ .idle then s
  else match s.fire.waiting.isEmpty, s.port.linkClaim with
    | true, none => s
    | false, none => serveFire s.port.runCount s
    | true, some l => serveLink l s
    | false, some l => if s.port.runCount < 4 then serveFire (s.port.runCount + 1) s else serveLink l s

/-- The burst in service has completed: the port is IDLE and the arbiter runs. -/
def portFree (s : State) : State := arbServe { s with port := { s.port with use := .idle, linkService := none } }

/-! ### Fire bursts (R41) -/

/-- How many bursts the fire port holds. -/
def FirePort.held (f : FirePort) : Nat := f.service.toList.length + f.waiting.length

/-- A burst is taken while the port holds fewer than two; the head driver holds a third back (R41). -/
def burstOffered (start : Addr24) (len : Nat) (s : State) : State :=
  if s.fire.held < 2 then
    arbServe { s with fire := { s.fire with waiting := s.fire.waiting ++ [{ next := start, left := len }] } }
  else s

/-! ### The drop meter (R42 to R46) -/

/-- The enabled plane entry that covers the address (R42). -/
def planeAt (p : Profile) (a : Addr24) : Option PlaneEntry :=
  p.planes.find? fun e => e.enabled && decide (e.base ≤ a.toNat) && decide (a.toNat < e.last)

/-- The weight of a drop code (R43). -/
def codeWeight (w : BaySettings) : Nat → Nat
  | 1 => w.small
  | 2 => w.medium
  | 3 => w.large
  | _ => 0

/-- The four codes of a byte, lowest-order pair first (R43). -/
def dropCodes (v : Byte) : List Nat := [v.toNat % 4, v.toNat / 4 % 4, v.toNat / 16 % 4, v.toNat / 64]

/-- The volume of a plane byte (R43). -/
def byteVolume (w : BaySettings) (v : Byte) : Nat := ((dropCodes v).map (codeWeight w)).sum

/-- R45: a plane byte of an OPEN, unsaturated gate: counted and returned, or the tally saturates and it is blanked. -/
def countByte (b : Bay) (v : Byte) (s : State) : State × Byte :=
  let tally := s.meter.tally[b] + byteVolume s.profile.bays[b] v
  if tally ≤ Config.tallyMax then
    ({ s with meter := { s.meter with tally := upd s.meter.tally b fun _ => tally } }, v)
  else
    (post .tallySaturated (some b) []
      { s with meter := { s.meter with saturated := upd s.meter.saturated b fun _ => true } }, 0x00#8)

/-- R44's row for READY: a plane byte of bay `b` at address `a`. -/
def meterPlane (b : Bay) (a : Addr24) (v : Byte) (s : State) : State × Byte :=
  match s.tracker.state with
  | .openSwath =>
    if s.tracker.gate[b] && !s.meter.saturated[b] then countByte b v s else (s, 0x00#8)
  | .noSwath => (post .strayRead (some b) (toLE 3 a.toNat) s, 0x00#8)
  | .waitLow => (post .strayRead (some b) (toLE 3 a.toNat) s, 0x00#8)

/-- R44: the byte read at `a` and what it is returned as. -/
def meterByte (a : Addr24) (v : Byte) (s : State) : State × Byte :=
  match s.part, s.copies with
  | .loading, _ => (s, 0x00#8)
  | .noProfile, _ => (s, 0x00#8)
  | _, none => (s, 0x00#8)
  | .ready, some p =>
    (match planeAt p a with
     | some e => meterPlane e.bay a v s
     | none => (s, v))
  | .drain, some p => (s, if (planeAt p a).isSome then 0x00#8 else v)
  | .drained, some p => (s, if (planeAt p a).isSome then 0x00#8 else v)

/-- R41, R44: the next byte of the fire burst in service is read, metered and returned; the last one completes the
burst. -/
def fireByteRead (s : State) : State :=
  match s.fire.service with
  | none => s
  | some f =>
    let r := meterByte f.next (Memory.read s.sram f.next.toNat) s
    let t := { r.1 with fire := { r.1.fire with returned := [r.2] } }
    if f.left ≤ 1 then portFree { t with fire := { t.fire with service := none } }
    else { t with fire := { t.fire with service := some { next := f.next + 1, left := f.left - 1 } } }

end Sys2Proof.Machine
end

