-- ==== Sys2Proof/Machine/LinkPort.lean ====
section
/-! DEFINITION. The carriage link port (chapter 8): receiving, routing, pass-through, responding, and link reset. -/

namespace Sys2Proof.Machine

/-- Link error reasons (R184). -/
inductive LinkFault where
  | stall | busy
deriving DecidableEq, Repr

def LinkFault.code : LinkFault → Nat
  | .stall => 1 | .busy => 2

def postLinkError (r : LinkFault) : State → State := post .linkError none (toLE 1 r.code)

/-! ### Responding (R143) -/

/-- The outstanding transaction, not yet answered, gets its response, and the port enters RESPONDING. -/
def respond (status : LinkStatus) (data : List Byte) (s : State) : State :=
  match s.link.outstanding with
  | some t =>
    if t.response = none then
      s.modLink fun p => { p with state := .responding, outstanding := some { t with waitsOrphan := false,
                                                                                     response := some ⟨status, data⟩ } }
    else s
  | none => s

/-- R151: a write answered REFUSED is reported for its bay, or for the device when it names none. -/
def reportRefused (r : LinkRequest) (s : State) : State :=
  if r.write then
    post .refusedWrite (if r.addr.toNat < 8192 then some (supplyBay r.addr) else none) (toLE 1 1 ++ toLE 3 r.addr.toNat) s
  else s

/-- An immediate answer (R146, R147). -/
def answerNow (r : LinkRequest) (status : LinkStatus) (s : State) : State :=
  let s1 := if status = .refused then reportRefused r s else s
  respond status [] (s1.modLink fun p =>
    { p with outstanding := p.outstanding.map fun t => { t with route := .immediate status } })

/-! ### Routes (R145 to R147) -/

/-- The image of a page, if present (R147): pages 0 and 1, the level page, the marks page. -/
def imagePage (c : BayContext) (page : Nat) : Option (List Byte) :=
  match page with
  | 0 => c.identity.map fun l => slice l 0 32
  | 1 => c.identity.map fun l => slice l 32 32
  | 2 => c.level
  | 3 => c.marks
  | _ => none

/-- R147's row for ADMITTED, LIMITED and BLOCKED. -/
def settledRoute (c : BayContext) (r : LinkRequest) : Route :=
  let page := supplyPage r.addr
  if page < 4 ∧ r.write = false then .image
  else if page < 3 then .immediate .refused
  else if r.write then
    (if linkWritePasses (c.marks.getD []) page (supplyOffset r.addr) r.len r.data then .passWrite else .immediate .refused)
  else .passRead

/-- R147: the route by the bay's state and the page class. -/
def bayRoute (c : BayContext) (r : LinkRequest) : Route :=
  match c.state with
  | .empty => .immediate .absent
  | .settling => .immediate .notReady
  | .identifying => .immediate .notReady
  | .proving => .immediate .notReady
  | .checking => .immediate .notReady
  | .rejected => faulty c r
  | .faulted => faulty c r
  | .admitted => settledRoute c r
  | .limited => settledRoute c r
  | .blocked => settledRoute c r
where
  /-- R147's row for REJECTED and FAULTED. -/
  faulty (c : BayContext) (r : LinkRequest) : Route :=
    if 2 ≤ supplyPage r.addr then .immediate .notReady
    else if r.write then .immediate .refused
    else if c.identity.isSome then .image
    else .immediate .notReady

/-- The route of an accepted request: R145 for swath space, R146 and R147 for supply space. -/
def routeOf (s : State) (r : LinkRequest) : Route :=
  match r.space with
  | .swath => .swath
  | .supply =>
    if s.part ≠ .ready then .immediate .notReady
    else if 8192 ≤ r.addr.toNat then .immediate .refused
    else if 32 < supplyOffset r.addr + r.len then .immediate .refused
    else bayRoute s.ctx[supplyBay r.addr] r

/-! ### Pass-through (R149, R150) -/

/-- The claim of a pass-through request. -/
def LinkRequest.claim (r : LinkRequest) : Claim :=
  { claimant := .link, command := if r.write then .store else .peek, page := supplyPage r.addr,
    offset := supplyOffset r.addr, length := r.len, data := r.data }

/-- The status of a pass-through outcome (R149, R150). -/
def LineOutcome.status : LineOutcome → LinkStatus
  | .success _ => .done
  | .denied => .failed
  | .programFailed => .failed
  | .silent => .failed
  | .garbled => .failed
  | .abandoned _ => .absent
  | .withdrawn => .notReady

/-- The data an outcome carries. -/
def LineOutcome.data : LineOutcome → List Byte
  | .success d => d
  | _ => []

/-- The answer of a pass-through transaction by its outcome. -/
def answerOutcome (o : LineOutcome) (s : State) : State := respond o.status o.data s

/-- The claim is made; one that ends at once is answered at once. -/
def makeLinkClaim (r : LinkRequest) (s : State) : State :=
  match claimArrives (supplyBay r.addr) r.claim s with
  | (t, none) => t
  | (t, some o) => answerOutcome o t

/-- R149, R150: the claim waits while an orphan is in progress on the bay's line. -/
def passThrough (r : LinkRequest) (s : State) : State :=
  if s.link.orphan[supplyBay r.addr] then
    s.modLink fun p => { p with outstanding := p.outstanding.map fun t => { t with waitsOrphan := true } }
  else makeLinkClaim r s

/-- The transaction that waits for the orphan of bay `b`. -/
def LinkPort.waitingFor (p : LinkPort) (b : Bay) : Option LinkRequest :=
  match p.outstanding with
  | some t =>
    (match t.request with
     | some r => if t.waitsOrphan && supplyBay r.addr == b then some r else none
     | none => none)
  | none => none

/-- R149, R150: the orphan's outcome has arrived; the transaction that waited makes its claim, a write after the
repeated test. -/
def orphanEnds (b : Bay) (s : State) : State :=
  let s1 := s.modLink fun p => { p with orphan := upd p.orphan b (fun _ => false) }
  match s.link.waitingFor b with
  | none => s1
  | some r =>
    let s2 := s1.modLink fun p => { p with outstanding := p.outstanding.map fun t => { t with waitsOrphan := false } }
    let marks := s1.ctx[b].marks.getD []
    if r.write && !linkWritePasses marks (supplyPage r.addr) (supplyOffset r.addr) r.len r.data then
      answerNow r .refused s2
    else makeLinkClaim r s2

/-- R150: a successful lock-word STORE is ANDed into the lock image. -/
def updateLock (b : Bay) (c : Claim) (o : LineOutcome) (s : State) : State :=
  match o, c.command with
  | .success _, .store =>
    if c.page = 3 then
      let put (img : List Byte) : List Byte := overwrite img c.offset (andBytes (slice img c.offset c.length) c.data)
      s.modCtx b fun x => { x with marks := x.marks.map put }
    else s
  | _, _ => s

/-- The outcome of a pass-through transaction: an orphan's is discarded, another's is answered (R144, R149, R150). -/
def linkOutcome (b : Bay) (c : Claim) (o : LineOutcome) (s : State) : State :=
  let s1 := updateLock b c o s
  if s1.link.orphan[b] then orphanEnds b s1 else answerOutcome o s1

/-! ### Accepting and routing a request (R139, R145 to R148) -/

/-- An accepted request is routed in the same act. -/
def routeRequest (r : LinkRequest) (s : State) : State :=
  match routeOf s r with
  | .swath =>
    arbServe { s with port := { s.port with linkClaim := some { write := r.write, start := r.addr, len := r.len,
                                                                data := r.data, discarded := false } } }
  | .image =>
    respond .done (slice ((imagePage s.ctx[supplyBay r.addr] (supplyPage r.addr)).getD []) (supplyOffset r.addr) r.len) s
  | .passRead => passThrough r s
  | .passWrite => passThrough r s
  | .immediate status => answerNow r status s

/-- R139: the outstanding transaction is formed and routed. -/
def acceptRequest (r : LinkRequest) (s : State) : State :=
  routeRequest r (s.modLink fun p =>
    { p with state := .awaitingService, buffer := [], byteTimer := .stopped,
             outstanding := some { request := some r, route := routeOf s r, waitsOrphan := false, response := none } })

/-- R139, R140: the frame ends with the response BADFRAME. -/
def answerBadFrame : State → State :=
  State.modLink fun p =>
    { p with state := .responding, buffer := [], badFrame := false, byteTimer := .stopped,
             outstanding := some { request := none, route := .immediate .badFrame, waitsOrphan := false,
                                   response := some ⟨.badFrame, []⟩ } }

/-! ### Receiving (R139 to R142) -/

/-- A byte of the frame being received makes its size unknowable (R140). -/
def spoils (buf : List Byte) : Bool :=
  (buf.length == 1 && (headerOf (buf.headD 0)).isNone) || (buf.length == 5 && decide (63 < field buf 4 1))

/-- A byte joins the frame being received (R139, R140). -/
def frameByte (v : Byte) (s : State) : State :=
  if s.link.badFrame then s.modLink fun p => { p with byteTimer := .running Config.byteUs }
  else
    let buf := s.link.buffer ++ [v]
    if spoils buf then
      s.modLink fun p => { p with state := .receiving, buffer := buf, badFrame := true, byteTimer := .running Config.byteUs }
    else if frameSize buf = some buf.length then
      (if frameCrcGood buf then acceptRequest (requestOf buf) s else answerBadFrame s)
    else s.modLink fun p => { p with state := .receiving, buffer := buf, byteTimer := .running Config.byteUs }

/-- R142: a byte that arrives while a transaction is outstanding. -/
def overrunByte (s : State) : State :=
  let s1 := s.modLink fun p => { p with overrun := true, quietTimer := .running Config.overrunQuietUs }
  if s.link.overrun then s1 else postLinkError .busy s1

/-- A byte arrives on the carriage link: what it does is settled by the port's state (R139, R140, R142, R144;
notes/assumptions/9). -/
def linkByteArrives (v : Byte) (s : State) : State :=
  if s.pins.resetN then s
  else match s.link.state with
    | .awaitingService => overrunByte s
    | .responding => overrunByte s
    | .receiving => frameByte v s
    | .idle =>
      if s.link.overrun then s.modLink fun p => { p with quietTimer := .running Config.overrunQuietUs }
      else frameByte v s

/-- R140: the byte timer reaches 1 ms in a frame whose bad-frame mark is set. -/
def badFrameExpires (s : State) : State :=
  if s.link.state = .receiving ∧ s.link.badFrame = true then answerBadFrame s else s

/-- R141: the byte timer reaches 1 ms in a frame whose bad-frame mark is clear. -/
def stallExpires (s : State) : State :=
  if s.link.state = .receiving ∧ s.link.badFrame = false then
    postLinkError .stall (s.modLink fun p => { p with state := .idle, buffer := [], byteTimer := .stopped })
  else s

/-- R142: 1 ms of quiet clears the overrun mark. -/
def overrunQuietExpires : State → State := State.modLink fun p => { p with overrun := false, quietTimer := .stopped }

/-- R143: the last byte of the response has been sent. -/
def responseSent (s : State) : State :=
  if s.link.state = .responding then s.modLink fun p => { p with state := .idle, outstanding := none } else s

/-- R58, R61: the link burst in service completes; a discarded one is not answered. -/
def linkBurstCompletes (s : State) : State :=
  match s.port.linkService with
  | none => s
  | some l =>
    let s1 := if l.write then { s with sram := Memory.writeBurst s.sram l.start l.data } else s
    let data := if l.write then [] else Memory.readBurst s.sram l.start l.len
    portFree (if l.discarded then s1 else respond .done data s1)

/-! ### Link reset (R20, R61, R144) -/

/-- The link transaction in progress on a line becomes an orphan. -/
def LineUnit.servesLink (u : LineUnit) : Bool :=
  match u.current with
  | some t => t.claim.claimant == .link
  | none => false

/-- R144: the frame and the outstanding transaction are discarded, and the port is IDLE. -/
def LinkPort.linkReset (lines : Vector LineUnit 8) (p : LinkPort) : LinkPort :=
  { p with state := .idle, buffer := [], badFrame := false, byteTimer := .stopped, outstanding := none,
           overrun := false, quietTimer := .stopped, orphan := updAll p.orphan fun b o => o || lines[b].servesLink }

/-- R20: a waiting link claim is withdrawn; nothing is answered for it. -/
def LineUnit.withdrawLink (u : LineUnit) : LineUnit := { u with waiting := { u.waiting with link := none } }

/-- R61. -/
def MemoryPort.linkReset (p : MemoryPort) : MemoryPort :=
  { p with linkClaim := none, runCount := 0, linkService := p.linkService.map fun l => { l with discarded := true } }

/-- What a link reset does to the port, the arbiter and the line units. -/
def linkSideReset (s : State) : State :=
  { s with link := s.link.linkReset s.lines, port := s.port.linkReset,
           lines := updAll s.lines fun _ u => u.withdrawLink }

/-! ### Overtaken by a departure or the drain (R152, R153) -/

/-- The bay of the outstanding supply-space transaction. -/
def LinkPort.bay (p : LinkPort) : Option Bay :=
  match p.outstanding with
  | some t =>
    (match t.request with
     | some r => if r.space = .supply ∧ r.addr.toNat < 8192 then some (supplyBay r.addr) else none
     | none => none)
  | none => none

/-- R152: a departure answers the bay's transaction ABSENT if it is not yet answered, and the orphan mark clears. -/
def linkDeparture (b : Bay) (s : State) : State :=
  (if s.link.bay = some b then respond .absent [] s else s).modLink fun p =>
    { p with orphan := upd p.orphan b (fun _ => false) }

/-- R153: a transaction that waits for an orphan is answered NOT_READY. -/
def linkDrainWaiting (s : State) : State :=
  match s.link.outstanding with
  | some t => if t.waitsOrphan then respond .notReady [] s else s
  | none => s

end Sys2Proof.Machine
end

