-- ==== Sys2Proof/Machine/TagLine.lean ====
section
/-! DEFINITION. The tag line unit's transactions (R8 to R16) and the end of a proof-engine service (R39). -/

namespace Sys2Proof.Machine

/-! ### The end of a transaction (R16) -/

/-- The outcome is handed to its claimant. -/
def handOutcome (b : Bay) (c : Claim) (o : LineOutcome) (s : State) : State :=
  match c.claimant with
  | .admission => admissionOutcome b c o s
  | .commit => commitOutcome b o s
  | .mark => markOutcome b c o s
  | .link => linkOutcome b c o s

/-- R16 step 1: the timers stop and the current transaction is cleared; the line is not yet IDLE. -/
def LineUnit.clear (u : LineUnit) : LineUnit :=
  { u with current := none, replyTimer := .stopped, pollTimer := .stopped, limitTimer := .stopped, sending := false }

/-- TAG_FAULT for the outcomes R16 reports. -/
def reportOutcome (b : Bay) (who : Claimant) (o : LineOutcome) (s : State) : State :=
  match o.faultReason with
  | some r => postTagFault b who r s
  | none => s

/-- R16: the transaction on claim `c` ends with outcome `o`. -/
def endTransaction (b : Bay) (c : Claim) (o : LineOutcome) (s : State) : State :=
  let s1 := handOutcome b c o (reportOutcome b c.claimant o (s.modLine b LineUnit.clear))
  arbitrate b (s1.modLine b fun u => { u with state := .idle })

/-! ### Requests and failures (R11, R13) -/

/-- R11: the last byte of the request has been sent. -/
def LineUnit.requestSent (t : Transaction) (u : LineUnit) : LineUnit :=
  { u with state := .awaitReply, sending := false, replyTimer := .running Config.replyUs,
           current := some { t with storeSent := t.storeSent || (t.phase == .first && t.claim.command == .store) } }

/-- R11, R91: the request of the current transaction has been sent whole. -/
def requestGone (b : Bay) (s : State) : State :=
  match s.lines[b].state, s.lines[b].sending, s.lines[b].current with
  | .request, true, some t =>
    let s1 := s.modLine b (LineUnit.requestSent t)
    if t.claim.claimant = .commit ∧ t.phase = .first ∧ t.claim.command = .store then commitStoreSent b s1 else s1
  | _, _, _ => s

/-- R13, R15: a request of the current transaction `t` has failed. `second` is the outcome of a second failure. -/
def requestFailed (b : Bay) (t : Transaction) (second : LineOutcome) (s : State) : State :=
  if t.retries = 0 then
    if t.limitPassed then endTransaction b t.claim .programFailed s
    else s.modLine b fun u =>
      LineUnit.enterRequest { u with replyTimer := .stopped, current := some { t with retries := 1, isRepeat := true } }
  else endTransaction b t.claim second s

/-! ### Replies (R12, R14, R15) -/

/-- The completion limit of a STORE or a PROVE (R12). -/
def completionLimit : TagCommand → Nat
  | .prove => Config.proveLimitUs
  | .store => Config.storeLimitUs
  | .peek => Config.storeLimitUs

/-- R12: the STORE or PROVE has been accepted; the POLLING phase begins. -/
def LineUnit.startPolling (t : Transaction) (u : LineUnit) : LineUnit :=
  { u with state := .pollWait, replyTimer := .stopped, pollTimer := .running Config.pollUs,
           limitTimer := .running (completionLimit t.claim.command),
           current := some { t with phase := .polling, isRepeat := false } }

/-- R14: a good WAIT to a POLL. -/
def LineUnit.pollAgain (t : Transaction) (u : LineUnit) : LineUnit :=
  { u with state := .pollWait, replyTimer := .stopped, pollTimer := .running Config.pollUs,
           current := some { t with isRepeat := false } }

/-- R12: the reply to a FIRST-phase request. -/
def firstReply (b : Bay) (t : Transaction) (r : ReplyClass) (s : State) : State :=
  match r with
  | .accept d =>
    if t.claim.command = .peek then endTransaction b t.claim (.success d) s
    else s.modLine b (LineUnit.startPolling t)
  | .wait => s.modLine b (LineUnit.startPolling t)
  | .denied => endTransaction b t.claim .denied s
  | .garbled => requestFailed b t .garbled s

/-- R14, R15: the reply to a POLL. The first data byte of an ACCEPT is the result. -/
def pollReply (b : Bay) (t : Transaction) (r : ReplyClass) (s : State) : State :=
  match r with
  | .accept d =>
    if d.headD 0 = 0x00#8 then endTransaction b t.claim (.success d.tail) s
    else endTransaction b t.claim .programFailed s
  | .wait =>
    if t.limitPassed then endTransaction b t.claim .programFailed s else s.modLine b (LineUnit.pollAgain t)
  | .denied => endTransaction b t.claim .denied s
  | .garbled => requestFailed b t .garbled s

/-- R9: bytes have been on the line; the quiet wait starts again. -/
def lineHeard (b : Bay) : State → State := State.modLine b fun u => { u with quiet := false }

/-- A complete reply has been received (R9, R12, R14); bytes that no request awaits only restart the quiet wait. -/
def replyArrives (b : Bay) (a : TagAnswer) (s : State) : State :=
  let s1 := lineHeard b s
  match s.lines[b].state, s.lines[b].current with
  | .awaitReply, some t =>
    (match t.phase with
     | .first => firstReply b t (classify t a) s1
     | .polling => pollReply b t (classify t a) s1)
  | _, _ => s1

/-- R9, R13: 2 ms after the request's last byte no complete reply has arrived; `begun` says one had begun. The
command brings no moment at which the bytes of a begun reply ended, so the quiet wait of R8 then starts anew here: the
model's choice (notes/assumptions/41). -/
def replyMissing (b : Bay) (begun : Bool) (s : State) : State :=
  let s1 := if begun then lineHeard b s else s
  match s.lines[b].state, s.lines[b].current with
  | .awaitReply, some t => requestFailed b t (if begun then .garbled else .silent) s1
  | _, _ => s

/-! ### Timers and the quiet wait (R8, R14, R15) -/

/-- R14: the poll timer expires in POLL_WAIT. -/
def pollExpires (b : Bay) (s : State) : State :=
  match s.lines[b].state, s.lines[b].pollTimer with
  | .pollWait, .running _ => s.modLine b fun u => LineUnit.enterRequest { u with pollTimer := .stopped }
  | _, _ => s

/-- R15: the completion-limit timer expires. -/
def limitExpires (b : Bay) (s : State) : State :=
  match s.lines[b].limitTimer, s.lines[b].current with
  | .running _, some t =>
    if s.lines[b].state = .pollWait then endTransaction b t.claim .programFailed s
    else s.modLine b fun u => { u with limitTimer := .stopped, current := some { t with limitPassed := true } }
  | _, _ => s

/-- R8: no byte has been on the line for 100 µs; a request that waits for it begins. -/
def LineUnit.quietElapsed (u : LineUnit) : LineUnit :=
  if u.state = .request then (if u.sending then u else { u with sending := true, quiet := false })
  else { u with quiet := true }

/-! ### The end of a proof-engine service (R39, R40) -/

/-- The result goes to its requester. -/
def deliver (r : ProofRequest) (result : List Byte) (s : State) : State :=
  if r.cancelled then s
  else match r.requester with
    | .admission => admissionResult r.bay r.inputs result s
    | .commit => checkCodeArrives r.bay result s

/-- R39: the service ends, its result is delivered, and the request at the head of the FIFO is served. -/
def serviceEnds (s : State) : State :=
  match s.proof.service with
  | none => s
  | some r =>
    let t := deliver r (proofResult s r.inputs) (proofComputed r.inputs s)
    { t with proof := t.proof.advance }

end Sys2Proof.Machine
end

