-- ==== Sys2Proof/Machine/Swath.lean ====
section
/-! DEFINITION. The swath tracker (chapter 3, R47 to R56): starts, gates, handovers, ends and splits. -/

namespace Sys2Proof.Machine

/-! ### Swath start (R49, R50) -/

/-- R50: the owner the gate is bound to when it latches OPEN; none when it latches CLOSED. -/
def gateOwner (s : State) (b : Bay) : Option EntryIx :=
  let c := s.ctx[b]
  match c.owner with
  | none => none
  | some e =>
    if s.part = .ready ∧ c.sticky.any = false ∧
        ((c.state = .admitted ∧ c.action = some .accept) ∨
         (c.state = .limited ∧ c.action = some .limit ∧ 0 < s.registry.entries[e].saved.allowance)) then some e
    else none

/-- R49. The commit engines are told that a swath is open (R83) and judge (R85). -/
def swathStart (s : State) : State :=
  let t : SwathTracker :=
    { state := .openSwath, number := s.tracker.number + 1,
      gate := Vector.ofFn fun b => (gateOwner s b).isSome, owner := Vector.ofFn fun b => gateOwner s b,
      limit := .running (s.profile.swathLimitMs * 1000) }
  forBays judge (forBays stopFlush { s with tracker := t, meter := DropMeter.reset })

/-! ### Swath end (R52, R53) -/

/-- R53: the bay's results go to the debit pool and to the verdict unit; the commits they make due start at once, on
this bay and on the bay that owns the entry by then (R85, notes/assumptions/22). -/
def handover (b : Bay) (s : State) : State :=
  match s.tracker.gate[b], s.tracker.owner[b] with
  | true, some e =>
    let tally := s.meter.tally[b]
    let s1 := if tally = 0 then s else placeTally b e s.tracker.number tally s
    let s2 := judge b (drawAllowance b e tally s1)
    (match s2.ownedBay e with
     | some c => judge c s2
     | none => s2)
  | _, _ => s

/-- R52 step 3: every gate CLOSED and every owner none. -/
def SwathTracker.shut (t : SwathTracker) : SwathTracker :=
  { t with gate := .replicate 8 false, owner := .replicate 8 none }

/-- R52. The tracker's state after it is its caller's. -/
def swathEnd (s : State) : State :=
  let s1 := forBays handover { s with tracker := { s.tracker with limit := .stopped } }
  forBays judge (forBays startFlush { s1 with tracker := s1.tracker.shut })

/-- A swath end after which the tracker is in state `next`. -/
def swathEndTo (next : TrackerState) (s : State) : State :=
  let t := swathEnd s
  { t with tracker := { t.tracker with state := next } }

/-! ### Edges, the limit, and resets (R48, R54, R56) -/

/-- R48: SWATH rises. -/
def swathRises (s : State) : State :=
  if s.tracker.state = .noSwath ∧ s.part = .ready then swathStart s else s

/-- R48: SWATH falls. -/
def swathFalls (s : State) : State :=
  match s.tracker.state with
  | .openSwath => swathEndTo .noSwath s
  | .waitLow => { s with tracker := { s.tracker with state := .noSwath } }
  | .noSwath => s

/-- R54: the swath-limit timer expires in OPEN. -/
def swathSplit (s : State) : State :=
  match s.tracker.state, s.tracker.limit with
  | .openSwath, .running _ =>
    let t := swathStart (swathEnd s)
    post .swathSplit none (toLE 2 t.tracker.number.toNat) t
  | _, _ => s

/-- R56, R57: an open swath ends at once and the tracker waits for SWATH to fall. -/
def swathForcedEnd (s : State) : State :=
  if s.tracker.state = .openSwath then swathEndTo .waitLow s else s

end Sys2Proof.Machine
end

