-- ==== Sys2Proof/Machine/Part.lean ====
section
/-! DEFINITION. The part state (chapter 10): the loads, READY, the drain, DRAINED, the restart, power and link reset; and
the departure act of R26. -/

namespace Sys2Proof.Machine

/-! ### Power and restart (R165, R175, R176) -/

/-- R155: what the notice unit keeps at a restart. -/
def NoticeUnit.restart (u : NoticeUnit) : NoticeUnit := { u with mask := none, rate := Config.defaultRate }

/-- R41: the bytes of a fire burst in service that have not been returned are returned as 0x00. -/
def FirePort.restart (f : FirePort) : FirePort :=
  match f.service with
  | some x => { FirePort.reset with returned := List.replicate x.left 0x00#8 }
  | none => { FirePort.reset with returned := f.returned }

/-- R138: a link write in service keeps the bytes it has stored and stores no more; how many is a free value. -/
def cutLinkWrite (s : State) : Memory :=
  match s.port.linkService with
  | some l =>
    if l.write then
      Memory.writeBurst s.sram l.start (l.data.take (Config.bytesStored s.freeCount % (l.data.length + 1)))
    else s.sram
  | none => s.sram

/-- R175: a power-on reset without loss. -/
def restart (s : State) : State :=
  { State.reset with powered := s.powered, pins := s.pins, sram := cutLinkWrite s, array := s.array,
                     notices := s.notices.restart, fire := s.fire.restart, freeCount := s.freeCount + 1,
                     pending := s.pending }

/-- R118, R163, R176: power is lost: every volatile place, the queued notices and the SRAM. The array keeps what it
holds, less a write cut off. -/
def losePower (s : State) : State :=
  { State.reset with powered := false, pins := s.pins, array := cutWrite s, freeCount := s.freeCount + 1,
                     pending := s.pending }

/-- R165: the internal power-on reset. While the part is powered it comes after a loss (notes/assumptions/11). -/
def powerOn (s : State) : State :=
  if s.powered then { losePower s with powered := true }
  else { State.reset with pins := s.pins, array := s.array, freeCount := s.freeCount, pending := s.pending }

/-! ### DRAINED (R174) -/

/-- R174's condition. -/
def drainDone (s : State) : Bool :=
  s.part == .drain && (allBays.all fun b => s.commits[b].state == .idle) &&
  (allBays.all fun b => s.lines[b].state == .idle) && (allEntries.all fun e => !s.registry.entries[e].dirty) &&
  !s.registry.header.dirty && s.registry.write.isNone

/-- DRAINED is entered: the absence timers stop (R22) and DRAINED is posted; the restart follows when SUPPLY_FAIL is
deasserted (R174, R175). -/
def enterDrained (s : State) : State :=
  let s1 := post .drained none []
    { s with part := .drained, ctx := updAll s.ctx fun _ c => { c with absence := .stopped } }
  if s.pins.supplyFail then s1 else restart s1

/-- What closes an act: the registry writer's choice when nothing is in flight (R114), and the judgement of R174
(notes/assumptions/18). -/
def finish (s : State) : State :=
  let s1 := writerTurn false s
  if drainDone s1 then enterDrained s1 else s1

/-! ### A bay that enters EMPTY (R19, R26, R27) -/

/-- The context's values after a departure; the presence line itself is a pin. -/
def emptyContext (b : Bay) : State → State := State.modCtx b fun _ => BayContext.reset

/-- The line work, the proof request, the stamps and the held lookup of a bay that enters EMPTY (R19, R40, R109, R136),
and its low posted (R94). -/
def releaseBay (b : Bay) (s : State) : State :=
  let s1 := { s with proof := s.proof.cancel b }
  let s2 := ((s1.modLine b LineUnit.abandon).modMark b MarkWriter.becomeIdle).modCommit b fun c =>
    { c with lowPosted := false }
  emptyContext b (dropLookup b s2)

/-- BAY_DEPARTED's payload (R26, R185). -/
def departedPayload (folded : Nat) (doubt : Bool) : List Byte := toLE 8 folded ++ toLE 1 doubt.toNat

/-- R111: on a departure the entry's in-bay becomes none and it is marked dirty. -/
def leaveBay (owner : Option EntryIx) (s : State) : State :=
  match owner with
  | some e => s.modEntry e fun n => { n with inBay := none, dirty := true }
  | none => s

/-- R26: the departure act. -/
def departure (b : Bay) (s : State) : State :=
  let owner := s.ctx[b].owner
  let r := abandonCommit b s.lines[b].commitStoreSent (linkDeparture b s)
  let folded := r.1.foldVolume b
  let s1 := leaveBay owner (fold b r.1)
  let s2 := releaseBay b (post .bayDeparted (some b) (departedPayload folded r.2) s1)
  match owner with
  | some e => answerHeld s.registry.entries[e].saved.serial s2
  | none => s2

/-- R25, R26: the absence timer reaches 2 ms. -/
def absenceExpires (b : Bay) (s : State) : State :=
  match s.ctx[b].absence with
  | .running _ => if s.ctx[b].state = .empty then s else departure b s
  | .stopped => s

/-! ### The drain (R172) -/

/-- R27: a bay in admission returns to EMPTY. -/
def drainBay (b : Bay) (s : State) : State := if s.ctx[b].state.inAdmission then releaseBay b s else s

/-- R20: the waiting commit claim ends as WITHDRAWN, and its commit settles (R101). -/
def withdrawCommit (b : Bay) (s : State) : State :=
  match s.lines[b].waiting.commit with
  | some _ => commitOutcome b .withdrawn (s.modLine b fun u => { u with waiting := { u.waiting with commit := none } })
  | none => s

/-- R20, R136: the waiting mark claim ends as WITHDRAWN, and the stamp list is emptied. -/
def withdrawMark (b : Bay) (s : State) : State :=
  let s1 := match s.lines[b].waiting.mark with
    | some c => markOutcome b c .withdrawn (s.modLine b fun u => { u with waiting := { u.waiting with mark := none } })
    | none => s
  s1.modMark b fun m => { m with list := [] }

/-- R20, R153: the waiting link claim ends as WITHDRAWN and is answered NOT_READY. -/
def withdrawLink (b : Bay) (s : State) : State :=
  match s.lines[b].waiting.link with
  | some _ => answerOutcome .withdrawn (s.modLine b LineUnit.withdrawLink)
  | none => s

/-- Every in-bay entry is marked dirty (R172). -/
def dirtyInBay (s : State) : State :=
  { s with registry := { s.registry with
      entries := updAll s.registry.entries fun _ n => if n.inBay.isSome then { n with dirty := true } else n } }

/-- R172: the entry to DRAIN from READY, one act (notes/assumptions/19). -/
def enterDrain (s : State) : State :=
  let s1 := forBays drainBay (swathForcedEnd { s with part := .drain })
  let s2 := forBays withdrawLink (forBays withdrawMark (forBays withdrawCommit s1))
  linkDrainWaiting (dirtyInBay (forBays fold s2))

/-- R165, R172: SUPPLY_FAIL is asserted. -/
def supplyFails (s : State) : State := if s.part = .ready then finish (enterDrain s) else s

/-- R175: SUPPLY_FAIL is deasserted. -/
def supplyReturns (s : State) : State := if s.part = .drained then restart s else s

/-! ### The loads (R166 to R169) -/

/-- R167, R168: the profile image has been read and is checked. -/
def profileRead (image : List Byte) (s : State) : State :=
  match s.part, s.loadPhase with
  | .loading, .readingProfile =>
    (match profileFault image with
     | some r => post .profileBad none (toLE 1 r.code) { s with part := .noProfile }
     | none =>
       let p := profileOf image
       { s with accepted := some p, loadPhase := .loadingRegistry,
                notices := { s.notices with mask := some p.mask, rate := baudRate p.baud } })
  | _, _ => s

/-- R169: the entry to READY. -/
def enterReady (s : State) : State :=
  let s1 := { s with part := .ready, copies := s.accepted, accepted := none }
  let s2 := post .ready none [] s1
  let s3 := { s2 with tracker := { s2.tracker with state := if s2.pins.swath then .waitLow else .noSwath } }
  forBays (fun b t => if t.pins.presence[b] then enterSettling b t else t) (forBays judge (forBays startFlush s3))

/-- R169: the registry load has completed. -/
def registryLoaded (unreadable : List EntryIx) (headerUnreadable : Bool) (s : State) : State :=
  match s.part, s.loadPhase with
  | .loading, .loadingRegistry =>
    let s1 := loadRegistry unreadable headerUnreadable s
    if s.pins.supplyFail then finish { s1 with part := .drain, accepted := none } else finish (enterReady s1)
  | _, _ => s

/-! ### Link reset (R171) -/

/-- R20, R56, R61, R144, R171. -/
def linkResets (s : State) : State := finish (swathForcedEnd (linkSideReset s))

/-! ### The array's report (R115, R116) -/

def writeEnds (ok : Bool) (s : State) : State :=
  match s.registry.write with
  | none => s
  | some w => finish (writerTurn w.ofEntry (writeReported ok w s))

end Sys2Proof.Machine
end

