-- ==== Sys2Proof/Machine/Tag.lean ====
section
/-! DEFINITION. A genuine tag (R1, R6): how it programs and what it refuses. The tag is no part of State: the manual
describes it "only as far as the part depends on it", and statements use these definitions. -/

namespace Sys2Proof.Machine

/-- The 32 pages of 32 bytes of a tag (R1). -/
abbrev TagMemory := Vector (List Byte) 32

/-- R6: on page 2 the bytes are erased and then programmed; on every other page programming only clears bits. -/
def programPage (page : Nat) (old : List Byte) (offset : Nat) (data : List Byte) : List Byte :=
  if page = 2 then overwrite old offset data
  else overwrite old offset (andBytes (slice old offset data.length) data)

/-- The written mark slots that a STORE to page 3 touches. -/
def touchesWrittenMark (marks : List Byte) (offset length : Nat) : Bool :=
  markSlots.any fun k => decide (offset < 4 * k + 4) && decide (4 * k < offset + length) && !markBlank marks k

/-- The lock-word bytes of a STORE to page 3 set a bit from 0 to 1. -/
def setsLockBit (marks : List Byte) (offset : Nat) (data : List Byte) : Bool :=
  let first := max offset 28
  !onlyClears (data.drop (first - offset)) (slice marks first (offset + data.length - first))

/-- R6: what a genuine tag refuses with DENIED. -/
def tagRefuses (mem : TagMemory) (page : Fin 32) (offset : Nat) (data : List Byte) : Bool :=
  decide (page.val < 2) ||
    (page.val == 3 && (touchesWrittenMark mem[page] offset data.length || setsLockBit mem[page] offset data))

/-- R6: a genuine tag after a STORE it does not refuse. -/
def tagPrograms (mem : TagMemory) (page : Fin 32) (offset : Nat) (data : List Byte) : TagMemory :=
  upd mem page fun old => programPage page.val old offset data

end Sys2Proof.Machine
end

