-- ==== Sys2Proof/Machine/PartEvents.lean ====
section
/-! DEFINITION. Meanings: power, the loads, SUPPLY_FAIL, RESET_N, and the array's report. -/

namespace Sys2Proof.Machine

abbrev Answer := Host.Outcome State Fault Refusal

/-- POWER_ON_RESET (R165). -/
def execPowerOnReset (s : State) : Answer := .next (powerOn s)

/-- POWER_LOSS (R176). -/
def execPowerLoss (s : State) : Answer := .next (whenPowered losePower s)

/-- PROFILE_READ_DONE (R167, R168): an image is 341 bytes (R186). -/
def execProfileReadDone (image : List Byte) (s : State) : Answer :=
  if image.length = profileBytes then .next (whenPowered (profileRead image) s)
  else .refused (.notACommand "PROFILE_READ_DONE")

/-- REGISTRY_LOAD_DONE (R169). -/
def execRegistryLoadDone (unreadable : List EntryIx) (headerUnreadable : Bool) (s : State) : Answer :=
  .next (whenPowered (registryLoaded unreadable headerUnreadable) s)

/-- SUPPLY_FAIL_ASSERTED (R172; R166 in LOADING, R170 in NO_PROFILE). -/
def execSupplyFailAsserted (s : State) : Answer :=
  .next (whenPowered supplyFails (s.modPins fun p => { p with supplyFail := true }))

/-- SUPPLY_FAIL_DEASSERTED (R175). -/
def execSupplyFailDeasserted (s : State) : Answer :=
  .next (whenPowered supplyReturns (s.modPins fun p => { p with supplyFail := false }))

/-- LINK_RESET (R171): RESET_N is asserted. -/
def execLinkReset (s : State) : Answer :=
  .next (whenPowered linkResets (s.modPins fun p => { p with resetN := true }))

/-- RESET_N_DEASSERTED (R144): the first byte from now on begins a frame. -/
def execResetNDeasserted (s : State) : Answer := .next (s.modPins fun p => { p with resetN := false })

/-- REGISTRY_WRITE_COMPLETE (R115, R116). -/
def execRegistryWriteComplete (ok : Bool) (s : State) : Answer := .next (whenPowered (writeEnds ok) s)

/-- NOTICE_FRAME_SENT (R162). -/
def execNoticeFrameSent (s : State) : Answer := .next (whenPowered frameSent s)

end Sys2Proof.Machine
end

