-- ==== Sys2Proof/Machine/BayEvents.lean ====
section
/-! DEFINITION. Meanings: the presence lines and their timers (R22 to R26), and the idle-flush timer (R83). -/

namespace Sys2Proof.Machine

/-- PRESENCE_ASSERTED (R22 to R25). -/
def execPresenceAsserted (b : Bay) (s : State) : Answer :=
  .next (whenPowered (presenceRises b) (s.modPins fun p => { p with presence := upd p.presence b fun _ => true }))

/-- PRESENCE_DROPPED (R22, R24, R25). -/
def execPresenceDropped (b : Bay) (s : State) : Answer :=
  .next (whenPowered (presenceDrops b) (s.modPins fun p => { p with presence := upd p.presence b fun _ => false }))

/-- SETTLE_TIMER_EXPIRY (R24, R28). -/
def execSettleTimerExpiry (b : Bay) (s : State) : Answer := .next (whenPowered (settleExpires b) s)

/-- ABSENCE_TIMER_EXPIRY (R26). -/
def execAbsenceTimerExpiry (b : Bay) (s : State) : Answer :=
  .next (whenPowered (fun t => finish (absenceExpires b t)) s)

/-- IDLE_FLUSH_EXPIRY (R83, R85). -/
def execIdleFlushExpiry (b : Bay) (s : State) : Answer := .next (whenPowered (fun t => finish (flushElapsed b t)) s)

end Sys2Proof.Machine
end

