-- ==== Sys2Proof/Machine/SwathEvents.lean ====
section
/-! DEFINITION. Meanings: SWATH, the swath limit, the fire port and the swath memory port (chapter 3). -/

namespace Sys2Proof.Machine

/-- SWATH_RISE (R48, R49). -/
def execSwathRise (s : State) : Answer :=
  .next (whenPowered (fun t => finish (swathRises t)) (s.modPins fun p => { p with swath := true }))

/-- SWATH_FALL (R48, R52). -/
def execSwathFall (s : State) : Answer :=
  .next (whenPowered (fun t => finish (swathFalls t)) (s.modPins fun p => { p with swath := false }))

/-- SWATH_LIMIT_EXPIRY (R54). -/
def execSwathLimitExpiry (s : State) : Answer := .next (whenPowered (fun t => finish (swathSplit t)) s)

/-- FIRE_BURST (R41): a burst of 1 to 256 bytes. -/
def execFireBurst (start : Addr24) (len : Nat) (s : State) : Answer :=
  if 1 ≤ len ∧ len ≤ 256 then .next (whenPowered (burstOffered start len) s)
  else .refused (.notACommand "FIRE_BURST")

/-- FIRE_BYTE (R44). -/
def execFireByte (s : State) : Answer := .next (whenPowered fireByteRead s)

/-- LINK_BURST_DONE (R58, R61). -/
def execLinkBurstDone (s : State) : Answer := .next (whenPowered linkBurstCompletes s)

end Sys2Proof.Machine
end

