-- ==== Sys2Proof/Machine/LinkEvents.lean ====
section
/-! DEFINITION. Meanings: the bytes, timers and response of the carriage link (chapter 8). -/

namespace Sys2Proof.Machine

/-- LINK_REQUEST (R139): the byte that completes a frame; the port's state says what it does. -/
def execLinkRequest (byte : Byte) (s : State) : Answer := .next (whenPowered (linkByteArrives byte) s)

/-- LINK_FRAME_BYTE (R139, R140): a byte that does not complete a frame. -/
def execLinkFrameByte (byte : Byte) (s : State) : Answer := .next (whenPowered (linkByteArrives byte) s)

/-- LINK_OVERRUN_BYTE (R142): a byte while a transaction is outstanding. -/
def execLinkOverrunByte (byte : Byte) (s : State) : Answer := .next (whenPowered (linkByteArrives byte) s)

/-- LINK_BADFRAME_TIMEOUT (R140). -/
def execLinkBadframeTimeout (s : State) : Answer := .next (whenPowered badFrameExpires s)

/-- LINK_STALL (R141). -/
def execLinkStall (s : State) : Answer := .next (whenPowered stallExpires s)

/-- OVERRUN_QUIET_EXPIRY (R142). -/
def execOverrunQuietExpiry (s : State) : Answer := .next (whenPowered overrunQuietExpires s)

/-- LINK_RESPONSE_SENT (R143). -/
def execLinkResponseSent (s : State) : Answer := .next (whenPowered responseSent s)

end Sys2Proof.Machine
end

