-- ==== Sys2Proof/Machine/TagEvents.lean ====
section
/-! DEFINITION. Meanings: the tag lines (R8 to R16) and the proof engine's service (R39). -/

namespace Sys2Proof.Machine

/-- QUIET_WAIT_ELAPSED (R8). -/
def execQuietWaitElapsed (b : Bay) (s : State) : Answer :=
  .next (whenPowered (State.modLine b LineUnit.quietElapsed) s)

/-- TAG_STRAY_BYTE (R8, R9). -/
def execTagStrayByte (b : Bay) (s : State) : Answer := .next (whenPowered (lineHeard b) s)

/-- REQUEST_SENT (R11, R91). -/
def execRequestSent (b : Bay) (s : State) : Answer := .next (whenPowered (requestGone b) s)

/-- TAG_REPLY (R9, R12 to R16): a reply has at least one byte. -/
def execTagReply (b : Bay) (answer : TagAnswer) (s : State) : Answer :=
  if answer.bytes = [] then .refused (.notACommand "TAG_REPLY")
  else .next (whenPowered (fun t => finish (replyArrives b answer t)) s)

/-- REPLY_TIMEOUT (R9, R13). -/
def execReplyTimeout (b : Bay) (begun : Bool) (s : State) : Answer :=
  .next (whenPowered (fun t => finish (replyMissing b begun t)) s)

/-- POLL_TIMER_EXPIRY (R14). -/
def execPollTimerExpiry (b : Bay) (s : State) : Answer := .next (whenPowered (pollExpires b) s)

/-- COMPLETION_LIMIT_EXPIRY (R15). -/
def execCompletionLimitExpiry (b : Bay) (s : State) : Answer :=
  .next (whenPowered (fun t => finish (limitExpires b t)) s)

/-- PROOF_SERVICE_DONE (R39). -/
def execProofServiceDone (s : State) : Answer := .next (whenPowered (fun t => finish (serviceEnds t)) s)

end Sys2Proof.Machine
end

