-- ==== Sys2Proof/Machine/Dispatch.lean ====
section
/-! DEFINITION. One arm for each command. -/

namespace Sys2Proof.Machine

def exec (i : Instr) (s : State) : Host.Outcome State Fault Refusal :=
  match i with
  | .powerOnReset => Sys2Proof.Machine.execPowerOnReset s
  | .powerLoss => Sys2Proof.Machine.execPowerLoss s
  | .profileReadDone image => Sys2Proof.Machine.execProfileReadDone image s
  | .registryLoadDone unreadable headerUnreadable => Sys2Proof.Machine.execRegistryLoadDone unreadable headerUnreadable s
  | .supplyFailAsserted => Sys2Proof.Machine.execSupplyFailAsserted s
  | .supplyFailDeasserted => Sys2Proof.Machine.execSupplyFailDeasserted s
  | .linkReset => Sys2Proof.Machine.execLinkReset s
  | .presenceAsserted b => Sys2Proof.Machine.execPresenceAsserted b s
  | .presenceDropped b => Sys2Proof.Machine.execPresenceDropped b s
  | .settleTimerExpiry b => Sys2Proof.Machine.execSettleTimerExpiry b s
  | .absenceTimerExpiry b => Sys2Proof.Machine.execAbsenceTimerExpiry b s
  | .swathRise => Sys2Proof.Machine.execSwathRise s
  | .swathFall => Sys2Proof.Machine.execSwathFall s
  | .swathLimitExpiry => Sys2Proof.Machine.execSwathLimitExpiry s
  | .fireBurst start len => Sys2Proof.Machine.execFireBurst start len s
  | .fireByte => Sys2Proof.Machine.execFireByte s
  | .linkBurstDone => Sys2Proof.Machine.execLinkBurstDone s
  | .linkRequest byte => Sys2Proof.Machine.execLinkRequest byte s
  | .linkBadframeTimeout => Sys2Proof.Machine.execLinkBadframeTimeout s
  | .linkStall => Sys2Proof.Machine.execLinkStall s
  | .linkOverrunByte byte => Sys2Proof.Machine.execLinkOverrunByte byte s
  | .overrunQuietExpiry => Sys2Proof.Machine.execOverrunQuietExpiry s
  | .linkResponseSent => Sys2Proof.Machine.execLinkResponseSent s
  | .quietWaitElapsed b => Sys2Proof.Machine.execQuietWaitElapsed b s
  | .tagStrayByte b => Sys2Proof.Machine.execTagStrayByte b s
  | .requestSent b => Sys2Proof.Machine.execRequestSent b s
  | .tagReply b answer => Sys2Proof.Machine.execTagReply b answer s
  | .replyTimeout b begun => Sys2Proof.Machine.execReplyTimeout b begun s
  | .pollTimerExpiry b => Sys2Proof.Machine.execPollTimerExpiry b s
  | .completionLimitExpiry b => Sys2Proof.Machine.execCompletionLimitExpiry b s
  | .proofServiceDone => Sys2Proof.Machine.execProofServiceDone s
  | .idleFlushExpiry b => Sys2Proof.Machine.execIdleFlushExpiry b s
  | .registryWriteComplete ok => Sys2Proof.Machine.execRegistryWriteComplete ok s
  | .noticeFrameSent => Sys2Proof.Machine.execNoticeFrameSent s
  | .linkFrameByte byte => Sys2Proof.Machine.execLinkFrameByte byte s
  | .resetNDeasserted => Sys2Proof.Machine.execResetNDeasserted s

end Sys2Proof.Machine
end

