-- ==== Sys2Proof/Machine/Step.lean ====
section
/-! DEFINITION. One step: the command at the front of the queue is taken and run; an empty queue idles. -/

namespace Sys2Proof.Machine

/-- The command at the front runs on the state with the queue's rest; with no command waiting the part idles
(notes/assumptions/10). -/
def step (s : State) : Host.Outcome State Fault Refusal :=
  match s.pending with
  | [] => .next s
  | c :: cs => exec c { s with pending := cs }

/-- `s` with the command that a word spells put at the front of its queue; no word spells one
(notes/assumptions/31). -/
def State.withFetchWord (s : State) (nbits w : Nat) : State :=
  match decodeTableWord nbits w with
  | some c => { s with pending := c :: s.pending }
  | none => s

end Sys2Proof.Machine
end

