-- ==== Sys2Proof/Safety.lean ====
section
/-! DEFINITION. What every step keeps: the canonical SRAM, the notice queue's bound, closed gates outside an open swath,
the pool's partition, and what DRAINED means. -/

namespace Sys2Proof.Machine

/-! ### The debit pool (R63, R64) -/

/-- `l` is the chain of records reached from `h` by the links, the last link being end. -/
def linked (records : Vector DebitRecord 64) : List RecordIx → Option RecordIx → Prop
  | [], h => h = none
  | r :: rs, h => h = some r ∧ linked records rs records[r].link

/-- The volume that the records of `l` hold. -/
def chainVolume (records : Vector DebitRecord 64) (l : List RecordIx) : Nat :=
  (l.map fun r => records[r].volume).sum

/-- The queue is the chain `l`: its head, tail, entry count and volume total say so (R64). -/
structure Queue.Lists (records : Vector DebitRecord 64) (q : Queue) (l : List RecordIx) : Prop where
  chain : linked records l q.head
  tail : q.tail = l.getLast?
  count : q.count = l.length
  total : q.total = chainVolume records l

/-- How often record `r` stands in the seventeen queues. -/
def occurrences (free : List RecordIx) (pend batch : Bay → List RecordIx) (r : RecordIx) : Nat :=
  free.count r + (∑ b : Bay, (pend b).count r) + ∑ b : Bay, (batch b).count r

/-- R64: every queue is a chain with its entry count and volume total, each record is in exactly one queue, and the
records of FREE hold nothing (R68). -/
def DebitPool.Partitioned (p : DebitPool) : Prop :=
  ∃ (free : List RecordIx) (pend batch : Bay → List RecordIx),
    p.free.Lists p.records free ∧
    (∀ b : Bay, p.pend[b].Lists p.records (pend b)) ∧
    (∀ b : Bay, p.batch[b].Lists p.records (batch b)) ∧
    (∀ r : RecordIx, occurrences free pend batch r = 1) ∧
    ∀ r ∈ free, p.records[r].volume = 0 ∧ p.records[r].swath = 0

/-! ### The notice unit (R155, R158, R159, R161) -/

/-- A QUEUE_FULL notice that is not being sent. -/
def Notice.waitingFull (n : Notice) : Bool := n.kind == .queueFull && !n.sending

/-- An IDLE transmitter has an empty queue; a SENDING one is sending the head notice and no other. -/
def NoticeUnit.headOk (u : NoticeUnit) : Bool :=
  match u.transmitter, u.queue with
  | .idle, q => q.isEmpty
  | .sending _, n :: ns => n.sending && ns.all fun m => !m.sending
  | .sending _, [] => false

/-- The notice in the last place is a QUEUE_FULL that waits. -/
def lastWaits (l : List Notice) : Bool :=
  match l.getLast? with
  | some n => n.waitingFull
  | none => false

/-- The queue holds at most 16 notices, the sixteenth a QUEUE_FULL; the closed mark is set exactly while a QUEUE_FULL
waits, and it waits in the last place. -/
def NoticeUnit.queueOk (u : NoticeUnit) : Bool :=
  if u.closed then
    decide (u.queue.length ≤ 16) && (u.queue.dropLast.all fun n => !n.waitingFull) && lastWaits u.queue
  else decide (u.queue.length ≤ 15) && u.queue.all fun n => !n.waitingFull

def NoticeUnit.ok (u : NoticeUnit) : Bool := u.headOk && u.queueOk

/-! ### The fire gates (R50, R52) -/

/-- Outside an open swath every gate is CLOSED and no owner is bound. -/
def SwathTracker.shutOutside (t : SwathTracker) : Prop :=
  t.state ≠ .openSwath → ∀ b : Bay, t.gate[b] = false ∧ t.owner[b] = none

/-- A gate is bound to an owner exactly while it is OPEN (R50). -/
def SwathTracker.bound (t : SwathTracker) : Prop := ∀ b : Bay, t.owner[b].isSome = t.gate[b]

/-! ### DRAINED (R174) -/

/-- R174's condition: nothing is in flight and nothing is dirty. -/
def State.saved (s : State) : Prop :=
  (∀ b : Bay, s.commits[b].state = .idle ∧ s.lines[b].state = .idle) ∧
    (∀ e : EntryIx, s.registry.entries[e].dirty = false) ∧ s.registry.header.dirty = false ∧ s.registry.write = none

/-- What DRAINED means, with what keeps it: nothing is in flight and nothing dirty until SUPPLY_FAIL is deasserted. A part
that is not READY has no bay in admission (R22, R27) and no open swath (R48, R57), and in DRAINED no absence timer
runs (R22), so no command that it still takes finds anything to start. -/
structure DrainInv (s : State) : Prop where
  admission : s.part ≠ .ready → ∀ b : Bay, s.ctx[b].state.inAdmission = false
  closed : s.part ≠ .ready → s.tracker.state ≠ .openSwath
  saved : s.part = .drained → s.saved
  failing : s.part = .drained → s.powered = true ∧ s.pins.supplyFail = true
  absence : s.part = .drained → ∀ b : Bay, s.ctx[b].absence = .stopped

/-! ### Metered volume (R71) -/

/-- The total of an entry's doubt record, a holding place of metered volume (R104). -/
def Saved.doubtTotal (v : Saved) : Nat :=
  match v.doubt with
  | some d => d.total
  | none => 0

/-- The volume of bay `b` and its owner entry `e` in the holding places of R71 that outlast a swath: records, carry, batch
carry, batch residue, the entry's residue, debt and doubt total, and the written-off total. -/
def State.account (s : State) (b : Bay) (e : EntryIx) : Nat :=
  s.pool.pend[b].total + s.pool.batch[b].total + s.pool.carry[b] + s.commits[b].batchCarry +
    s.commits[b].batchResidue + s.registry.entries[e].saved.residue + s.registry.entries[e].saved.debt +
    s.registry.entries[e].saved.doubtTotal + s.registry.header.writtenOff

/-- The bay's commit in flight is the one its batch says (R86, R89): T, q and r, and nothing left in the entry's
residue. -/
structure State.CommitFormed (s : State) (b : Bay) (e : EntryIx) : Prop where
  total : s.commits[b].total = s.pool.batch[b].total + s.commits[b].batchCarry + s.commits[b].batchResidue
  charged : s.commits[b].charged = s.commits[b].total / 1000000000
  residue : s.commits[b].newResidue = s.commits[b].total % 1000000000
  entry : s.registry.entries[e].saved.residue = 0

/-! ### The whole invariant that every step keeps -/

structure PartInv (s : State) : Prop where
  /-- The swath SRAM is in canonical form. -/
  sram : s.sram.wf = true
  notices : s.notices.ok = true
  gates : s.tracker.shutOutside
  owners : s.tracker.bound
  /-- A swath is open only while the part is READY (R48, R57). -/
  opened : s.tracker.state = .openSwath → s.part = .ready
  pool : s.pool.Partitioned

end Sys2Proof.Machine
end

