-- ==== Sys2Proof/Certificates/Slice0/Obligations.lean ====
section
/-! DEFINITION. The statements for the provers. Each says what one rule, or a few rules that belong together, make the
part do. -/

open Sys2Proof Sys2Proof.Machine

/-! ### The queue of commands -/

/-- A step of a state runs the command at the front of its queue on the state with the queue's rest; with no command
waiting the part idles, which is the model's choice (notes/assumptions/10). -/
def Obligations.StepRunsTheFrontCommand : Prop :=
  (∀ (c : Instr) (cs : List Instr) (s : State),
    step { s with pending := c :: cs } = exec c { s with pending := cs }) ∧
  ∀ s : State, s.pending = [] → step s = .next s

/-- Every command whose operands are in the rules' ranges is answered with a next state that leaves the queue alone; a
term outside them is refused (notes/assumptions/16). -/
def Obligations.WellFormedCommandsComplete : Prop :=
  ∀ (c : Instr) (s : State),
    (c.wellFormed = true → ∃ t : State, exec c s = .next t ∧ t.pending = s.pending) ∧
    (c.wellFormed = false → ∃ m : String, exec c s = .refused (.notACommand m))

/-! ### Power -/

/-- The values of every block at power-on (R10, R21, R38, R39, R41, R45, R47, R59, R65, R75, R82, R133, R138, R155),
the part LOADING (R165, chapter 10), and before the load no valid entry, position 47 (R106). That each line's quiet flag
is clear, the quiet wait running anew, is the model's choice (notes/assumptions/17). -/
def Obligations.PowerOnValues : Prop :=
  let s := State.reset
  s.part = .loading ∧
  (∀ b : Bay,
    s.lines[b] = { state := .idle, current := none, waiting := ⟨none, none, none, none⟩, lastLink := false,
                   replyTimer := .stopped, pollTimer := .stopped, limitTimer := .stopped, sending := false,
                   quiet := false } ∧
    (s.ctx[b].state = .empty ∧ s.ctx[b].action = none ∧ s.ctx[b].owner = none ∧ s.ctx[b].nonce = none ∧
      s.ctx[b].attempts = 0 ∧ s.ctx[b].identity = none ∧ s.ctx[b].level = none ∧ s.ctx[b].marks = none ∧
      s.ctx[b].sticky = ⟨false, false⟩ ∧ s.ctx[b].settle = .stopped ∧ s.ctx[b].absence = .stopped ∧
      s.ctx[b].awaitLine = false ∧ s.ctx[b].awaitProof = false) ∧
    s.commits[b] = { state := .idle, batchCarry := 0, batchResidue := 0, total := 0, charged := 0, newResidue := 0,
                     priorLevel := 0, priorUse := 0, newLevel := 0, newUse := 0, excess := 0, pageData := none,
                     flush := .stopped, lowPosted := false } ∧
    s.marks[b].list = [] ∧ s.marks[b].inHand = none ∧
    s.pool.pend[b] = ⟨none, none, 0, 0⟩ ∧ s.pool.batch[b] = ⟨none, none, 0, 0⟩ ∧ s.pool.carry[b] = 0 ∧
    s.pool.starved[b] = 0 ∧ s.meter.tally[b] = 0 ∧ s.meter.saturated[b] = false ∧
    s.tracker.gate[b] = false ∧ s.tracker.owner[b] = none ∧ s.link.orphan[b] = false) ∧
  (∀ r : RecordIx, s.pool.records[r] = { link := if r = 63 then none else some (r + 1), swath := 0, volume := 0 }) ∧
  s.pool.free = { head := some 0, tail := some 63, count := 64, total := 0 } ∧
  (∀ e : EntryIx, s.registry.entries[e].saved.valid = false ∧ s.registry.entries[e].inBay = none ∧
    s.registry.entries[e].dirty = false ∧ s.registry.entries[e].commits = 0) ∧
  s.registry.header.dirty = false ∧ s.registry.write = none ∧ s.registry.position = 47 ∧ s.registry.heldLookups = [] ∧
  s.proof = { service := none, fifo := [], draws := 0 } ∧
  s.tracker.state = .noSwath ∧ s.tracker.number = 0 ∧ s.tracker.limit = .stopped ∧
  s.fire.service = none ∧ s.fire.waiting = [] ∧
  s.port = { use := .idle, linkClaim := none, linkService := none, runCount := 0 } ∧
  s.link.state = .idle ∧ s.link.buffer = [] ∧ s.link.badFrame = false ∧ s.link.byteTimer = .stopped ∧
  s.link.outstanding = none ∧ s.link.overrun = false ∧ s.link.quietTimer = .stopped ∧
  s.notices = { queue := [], closed := false, mask := none, rate := 115200, transmitter := .idle }

/-- POWER_ON_RESET of an unpowered part: LOADING with every volatile place at its power-on value, the SRAM among them
(notes/assumptions/5); the array, the lines' levels and the queue of commands stay. A part that still has power loses it
first (notes/assumptions/11). -/
def Obligations.PowerOnResetEntersLoading : Prop :=
  (∀ s : State, s.powered = false →
    exec .powerOnReset s = .next { State.reset with pins := s.pins, array := s.array, freeCount := s.freeCount,
                                                    pending := s.pending }) ∧
  ∀ s t : State, s.powered = true → exec .powerLoss s = .next t → exec .powerOnReset s = .next { t with powered := true }

/-- POWER_LOSS: every volatile place and the queued notices are lost, the SRAM too (notes/assumptions/5); the array keeps
all it holds but the slot or header whose write was cut off, which is left as it was, as it was
to be, or torn (R118). -/
def Obligations.PowerLossKeepsOnlyTheArray : Prop :=
  ∀ s : State, s.powered = true →
    ∃ a : StoredArray,
      exec .powerLoss s = .next { State.reset with powered := false, pins := s.pins, array := a,
                                                   freeCount := s.freeCount + 1, pending := s.pending } ∧
      (s.registry.write = none → a = s.array) ∧
      (∀ (e : EntryIx) (v : Saved) (c : BitVec 32), s.registry.write = some (.entry e v c) →
        a.header = s.array.header ∧ (∀ f : EntryIx, f ≠ e → a.slots[f] = s.array.slots[f]) ∧
        (a.slots[e] = s.array.slots[e] ∨ a.slots[e] = .stored v c ∨ a.slots[e] = .torn)) ∧
      (∀ (q w : Nat) (c : BitVec 32), s.registry.write = some (.header q w c) →
        a.slots = s.array.slots ∧
        (a.header = s.array.header ∨ a.header = .stored q w c ∨ a.header = .torn))

/-- Without power nothing but the lines' levels moves, whatever the command, until POWER_ON_RESET: the model's choice
(notes/assumptions/11). -/
def Obligations.UnpoweredPartMovesOnlyItsLines : Prop :=
  ∀ (c : Instr) (s : State), s.powered = false → c ≠ .powerOnReset → c.wellFormed = true →
    ∃ p : Pins, exec c s = .next { s with pins := p }

/-! ### The loads -/

/-- PROFILE_READ_DONE (R167, R168): a refused image takes the part to NO_PROFILE with PROFILE_BAD; an accepted one gives
the notice unit its mask and its line rate by the four baud codes (R156), and the load goes on to the registry. -/
def Obligations.ProfileReadAcceptsOrRefuses : Prop :=
  ∀ (img : List Byte) (s : State), s.powered = true → s.part = .loading → s.loadPhase = .readingProfile →
    img.length = 341 →
    (∀ r : ProfileReason, profileFault img = some r →
      exec (.profileReadDone img) s = .next (post .profileBad none (toLE 1 r.code) { s with part := .noProfile })) ∧
    (profileFault img = none →
      let baud := field img 0x003 1
      baud ≤ 3 ∧
      exec (.profileReadDone img) s = .next
        { s with accepted := some (profileOf img), loadPhase := .loadingRegistry,
                 notices := { s.notices with mask := some (BitVec.ofNat 32 (field img 0x014 4)),
                                             rate := if baud = 0 then 57600 else if baud = 1 then 115200
                                               else if baud = 2 then 230400 else 460800 } })

/-- R186: each field of the profile stands at its offset of the image. R167: the five checks, each over those fields, in
their order; the first that fails gives the reason. -/
def Obligations.ProfileChecksInOrder : Prop :=
  ∀ img : List Byte, img.length = 341 →
    let p := profileOf img
    let crc := (crc32 (img.take 337)).toNat ≠ field img 337 4
    let version := field img 0 2 ≠ 1
    let planes :=
      (∃ i j : Nat, i < j ∧ j < 16 ∧ ∃ x y : PlaneEntry, p.planes[i]? = some x ∧ p.planes[j]? = some y ∧
        x.enabled = true ∧ y.enabled = true ∧ x.base < y.base + y.length ∧ y.base < x.base + x.length) ∨
      (∃ x ∈ p.planes, x.enabled = true ∧ (0xFFFFFF < x.base + x.length - 1 ∨ x.length = 0))
    let weights := ∃ b : Bay, p.bays[b].medium < p.bays[b].small ∨ p.bays[b].large < p.bays[b].medium ∨
      (p.bays[b].large = 0 ∧ ∃ x ∈ p.planes, x.enabled = true ∧ x.bay = b)
    let range :=
      (∃ b : Bay, p.bays[b].commitStep < 1 ∨ 10000 < p.bays[b].commitStep ∨ p.bays[b].idleFlush < 5 ∨
        600 < p.bays[b].idleFlush ∨ 100 < p.bays[b].lowMark) ∨
      50 < p.margin ∨ p.swathLimitMs < 100 ∨ 10000 < p.swathLimitMs ∨ p.saveInterval < 1 ∨ 255 < p.saveInterval ∨
      4 < field img 2 1 ∨ (∃ i : Nat, i < 5 ∧ 2 < field img (0x0F8 + 5 * i) 1) ∨ 3 < field img 3 1
    let row (i : Nat) (r : PolicyRow) : Prop :=
      let o := 0x0F8 + 5 * i
      (field img o 1 = 0 → r.action = .accept) ∧ (field img o 1 = 1 → r.action = .limit) ∧
        (field img o 1 = 2 → r.action = .block) ∧ r.allowanceLU = field img (o + 1) 3 ∧
        r.mark = (field img (o + 4) 1).testBit 0
    (p.makers.length = min 4 (field img 0x002 1) ∧
      (∀ i : Nat, i < p.makers.length → p.makers[i]? = some (field img (0x00C + 2 * i) 2)) ∧
      p.baud = field img 0x003 1 ∧ p.printerId.toNat = field img 0x004 4 ∧ p.swathLimitMs = field img 0x008 2 ∧
      p.saveInterval = field img 0x00A 1 ∧ p.margin = field img 0x00B 1 ∧ p.mask.toNat = field img 0x014 4 ∧
      p.planes.length = 16 ∧
      (∀ i : Nat, i < 16 →
        let o := 0x018 + 8 * i
        ∃ x : PlaneEntry, p.planes[i]? = some x ∧ x.base = field img o 3 ∧ x.length = field img (o + 3) 4 ∧
          x.bay.val = field img (o + 7) 1 % 8 ∧ x.enabled = (field img (o + 7) 1).testBit 7) ∧
      (∀ b : Bay,
        let o := 0x098 + 12 * b.val
        p.bays[b].ink.toNat = field img o 1 ∧ p.bays[b].lowMark = field img (o + 1) 1 ∧
          p.bays[b].small = field img (o + 2) 2 ∧ p.bays[b].medium = field img (o + 4) 2 ∧
          p.bays[b].large = field img (o + 6) 2 ∧ p.bays[b].commitStep = field img (o + 8) 2 ∧
          p.bays[b].idleFlush = field img (o + 10) 2) ∧
      row 0 p.policy.refilled ∧ row 1 p.policy.rolledBack ∧ row 2 p.policy.tampered ∧ row 3 p.policy.priorRefill ∧
      row 4 p.policy.overdrawn ∧
      ∀ i : Fin 4, p.keys[i].toNat = field img (0x111 + 16 * i.val) 16) ∧
    (crc → profileFault img = some .crc) ∧
    (¬crc → version → profileFault img = some .version) ∧
    (¬crc → ¬version → planes → profileFault img = some .planes) ∧
    (¬crc → ¬version → ¬planes → weights → profileFault img = some .weights) ∧
    (¬crc → ¬version → ¬planes → ¬weights → range → profileFault img = some .range) ∧
    (¬crc → ¬version → ¬planes → ¬weights → ¬range → profileFault img = none)

/-- REGISTRY_LOAD_DONE (R169): with SUPPLY_FAIL deasserted the entry to READY, every bay EMPTY before it (R22); with SUPPLY_FAIL
asserted DRAIN, without READY and without the blocks' copies. What `finish` closes the act with is
notes/assumptions/18. -/
def Obligations.RegistryLoadEntersReadyOrDrain : Prop :=
  ∀ (un : List EntryIx) (hu : Bool) (s : State), s.powered = true → s.part = .loading →
    s.loadPhase = .loadingRegistry →
    (s.pins.supplyFail = true →
      exec (.registryLoadDone un hu) s =
        .next (finish { loadRegistry un hu s with part := .drain, accepted := none })) ∧
    (s.pins.supplyFail = false → (∀ b : Bay, s.ctx[b] = BayContext.reset) →
    ∃ t : State, exec (.registryLoadDone un hu) s = .next (finish t) ∧
      t.part = .ready ∧ t.copies = s.accepted ∧ t.accepted = none ∧
      t.notices = (post .ready none [] (loadRegistry un hu s)).notices ∧
      t.tracker = { s.tracker with state := if s.pins.swath then .waitLow else .noSwath } ∧
      (∀ b : Bay, t.commits[b] = { s.commits[b] with flush := .running (t.profile.bays[b].idleFlush * 100000) } ∧
        t.ctx[b] = if s.pins.presence[b] then { BayContext.reset with state := .settling, settle := .running 50000 }
          else BayContext.reset) ∧
      t.registry = { Registry.reset with entries := Vector.ofFn (loadEntry s.array un), header := loadHeader s.array un hu } ∧
      t.array = s.array ∧ t.sram = s.sram ∧ t.lines = s.lines ∧ t.marks = s.marks ∧ t.proof = s.proof ∧
      t.meter = s.meter ∧ t.port = s.port ∧ t.fire = s.fire ∧ t.link = s.link ∧ t.pins = s.pins)

/-- R117: what each stored slot and the header become in the working copy, the admission sequence, no two loaded entries
of one serial, and REGISTRY_TORN with the count of what was discarded: the entries left dirty, and a torn header. Slots
are structured, and a torn one has no bytes (notes/assumptions/15). -/
def Obligations.LoadJudgesEachSlot : Prop :=
  ∀ (un : List EntryIx) (hu : Bool) (s : State),
    let r := (loadRegistry un hu s).registry
    let headerErased := hu = false ∧ s.array.header = .erased
    let headerTorn := hu = true ∨ s.array.header = .torn ∨
      ∃ q w c, s.array.header = .stored q w c ∧ c ≠ headerCheck q w
    (∀ e : EntryIx, e ∉ un → (s.array.slots[e] = .erased ∨ ∃ v c, s.array.slots[e] = .stored v c ∧ v.valid = false) →
      r.entries[e].saved.valid = false ∧ r.entries[e].dirty = false) ∧
    (∀ e : EntryIx, (e ∈ un ∨ s.array.slots[e] = .torn ∨
        ∃ v c, s.array.slots[e] = .stored v c ∧ v.valid = true ∧ c ≠ entryCheck e v) →
      r.entries[e].saved.valid = false ∧ r.entries[e].dirty = true) ∧
    (∀ (e : EntryIx) (v : Saved), e ∉ un → s.array.slots[e] = .stored v (entryCheck e v) → v.valid = true →
      (∀ (f : EntryIx) (w : Saved), f ≠ e → f ∉ un → s.array.slots[f] = .stored w (entryCheck f w) →
        w.valid = true → w.serial = v.serial → w.lastSeen < v.lastSeen ∨ (w.lastSeen = v.lastSeen ∧ e < f)) →
      r.entries[e] = { saved := v, check := entryCheck e v, inBay := none, dirty := false, commits := 0 }) ∧
    (∀ (e f : EntryIx) (v w : Saved), e ≠ f → e ∉ un → f ∉ un → s.array.slots[e] = .stored v (entryCheck e v) →
      s.array.slots[f] = .stored w (entryCheck f w) → v.valid = true → w.valid = true → w.serial = v.serial →
      (v.lastSeen < w.lastSeen ∨ (v.lastSeen = w.lastSeen ∧ f < e)) →
      r.entries[e].saved.valid = false ∧ r.entries[e].dirty = true) ∧
    (∀ e f : EntryIx, r.entries[e].saved.valid = true → r.entries[f].saved.valid = true →
      r.entries[e].saved.serial = r.entries[f].saved.serial → e = f) ∧
    (headerErased ∨ headerTorn → r.header.writtenOff = 0 ∧ r.header.dirty = true) ∧
    (∀ q w : Nat, hu = false → s.array.header = .stored q w (headerCheck q w) →
      r.header.writtenOff = w ∧ r.header.check = headerCheck q w ∧ r.header.dirty = false ∧
        q ≤ r.header.sequence) ∧
    (∀ e : EntryIx, r.entries[e].saved.valid = true → r.entries[e].saved.lastSeen ≤ r.header.sequence) ∧
    (∀ m : Nat, (∀ e : EntryIx, r.entries[e].saved.valid = true → r.entries[e].saved.lastSeen ≤ m) →
      (m = 0 ∨ ∃ e : EntryIx, r.entries[e].saved.valid = true ∧ r.entries[e].saved.lastSeen = m) →
      (headerErased ∨ headerTorn → r.header.sequence = m) ∧
      (∀ q w : Nat, hu = false → s.array.header = .stored q w (headerCheck q w) → r.header.sequence = max q m)) ∧
    r.write = none ∧ r.position = 47 ∧ r.heldLookups = [] ∧
    ∀ k : Nat, k = (List.finRange 48).countP (fun e => r.entries[e].dirty) →
      let posted (n : Nat) : State :=
        if n = 0 then { s with registry := r } else post .registryTorn none (toLE 1 n) { s with registry := r }
      (headerTorn → loadRegistry un hu s = posted (k + 1)) ∧ (¬headerTorn → loadRegistry un hu s = posted k)

/-! ### SUPPLY_FAIL, the drain and the restart -/

/-- SUPPLY_FAIL_ASSERTED in READY (R172, R20, R27, R57, R79, R101, R136, R153): the part is in DRAIN, or already DRAINED; an
open swath has ended, the bays in admission are EMPTY, no commit, mark or link claim waits, no stamp is listed, the pool is
folded for every bay with an owner, and every in-bay entry is dirty or being written. A withdrawn commit is IDLE with its
batch back in the pool and folded, every other commit runs on; a supply transaction whose claim is withdrawn, or that
waits for an orphan, is answered NOT_READY, every other one stands as it was. The order of the pieces is
notes/assumptions/19, and what closes the act is notes/assumptions/18. -/
def Obligations.SupplyFailInReadyEntersDrain : Prop :=
  ∀ s : State, s.powered = true → s.part = .ready → s.tracker.shutOutside →
    ∃ t : State, exec .supplyFailAsserted s = .next t ∧ t.pins = { s.pins with supplyFail := true } ∧
      (t.part = .drain ∨ t.part = .drained) ∧
      t.tracker.state = (if s.tracker.state = .openSwath then .waitLow else s.tracker.state) ∧
      (∀ b : Bay,
        t.tracker.gate[b] = false ∧ t.tracker.owner[b] = none ∧
        t.lines[b].waiting.commit = none ∧ t.lines[b].waiting.mark = none ∧ t.lines[b].waiting.link = none ∧
        t.marks[b].list = [] ∧ t.ctx[b].state.inAdmission = false ∧
        (s.ctx[b].state.inAdmission = true → t.ctx[b].state = .empty ∧ t.lines[b].state = .idle ∧
          b ∉ t.registry.heldLookups) ∧
        (s.ctx[b].state.inAdmission = false → t.lines[b].current = s.lines[b].current ∧
          (s.tracker.state ≠ .openSwath → t.ctx[b].state = s.ctx[b].state)) ∧
        (t.ctx[b].owner ≠ none → t.pool.pend[b] = Queue.empty ∧ t.pool.carry[b] = 0)) ∧
      (∀ e : EntryIx, t.registry.entries[e].inBay ≠ none →
        t.registry.entries[e].dirty = true ∨ t.registry.inFlight e = true) ∧
      t.array = s.array ∧ t.sram = s.sram ∧ t.fire = s.fire ∧ t.port = s.port ∧ t.meter = s.meter ∧
      (∀ b : Bay,
        (s.lines[b].waiting.commit = none ∨ s.ctx[b].state.inAdmission = true →
          t.commits[b].state = s.commits[b].state ∧ t.commits[b].batchCarry = s.commits[b].batchCarry ∧
            t.commits[b].batchResidue = s.commits[b].batchResidue) ∧
        (s.lines[b].waiting.commit ≠ none → s.ctx[b].state.inAdmission = false → s.ctx[b].owner ≠ none →
          t.commits[b].state = .idle ∧ t.commits[b].batchCarry = 0 ∧ t.commits[b].batchResidue = 0 ∧
            t.pool.batch[b] = Queue.empty)) ∧
      (s.tracker.state ≠ .openSwath → s.pool.Partitioned → ∀ (b : Bay) (e : EntryIx), s.ctx[b].owner = some e →
        s.ctx[b].state.inAdmission = false → (∀ c : Bay, s.ctx[c].owner = some e → c = b) →
        let x := s.registry.entries[e].saved
        let waits := s.pool.pend[b].total + s.pool.carry[b]
        let batch := s.pool.batch[b].total + s.commits[b].batchCarry
        x.debt + waits + batch ≤ 2 ^ 56 - 1 →
        (s.lines[b].waiting.commit = none → t.registry.entries[e].saved = { x with debt := x.debt + waits }) ∧
        (s.lines[b].waiting.commit ≠ none → t.registry.entries[e].saved =
          { x with debt := x.debt + waits + batch, residue := x.residue + s.commits[b].batchResidue })) ∧
      (∀ x : LinkTransaction, s.link.outstanding = some x → x.response = none →
        x.waitsOrphan = true ∨ (∃ b : Bay, s.lines[b].waiting.link ≠ none ∧ s.ctx[b].state.inAdmission = false) →
        t.link = { s.link with
          state := .responding
          outstanding := some { x with waitsOrphan := false, response := some { status := .notReady, data := [] } } }) ∧
      ((∀ x : LinkTransaction, s.link.outstanding = some x → x.response = none →
          x.waitsOrphan = false ∧ ∀ b : Bay, s.lines[b].waiting.link = none) →
        t.link = s.link)

/-- SUPPLY_FAIL outside READY, and its return (R166, R170, R172, R175): only the level moves, but for the restart out of
DRAINED, which keeps the array and the notices, gives up the mask and the rate, and returns a burst's bytes as 0x00, all in
its act (notes/assumptions/32); how many bytes of a link write it has stored is a free value (notes/assumptions/4). -/
def Obligations.SupplyFailElsewhereAndReturn : Prop :=
  (∀ s : State, s.powered = true → s.part ≠ .ready →
    exec .supplyFailAsserted s = .next { s with pins := { s.pins with supplyFail := true } }) ∧
  (∀ s : State, s.powered = true → s.part ≠ .drained →
    exec .supplyFailDeasserted s = .next { s with pins := { s.pins with supplyFail := false } }) ∧
  ∀ s : State, s.powered = true → s.part = .drained →
    ∃ (m : Memory) (out : List Byte),
      exec .supplyFailDeasserted s = .next
        { State.reset with pins := { s.pins with supplyFail := false }, array := s.array, sram := m,
                           notices := { s.notices with mask := none, rate := 115200 },
                           fire := { service := none, waiting := [], returned := out },
                           freeCount := s.freeCount + 1, pending := s.pending } ∧
      (∀ f : FireBurst, s.fire.service = some f → out = List.replicate f.left 0x00#8) ∧
      (s.fire.service = none → out = s.fire.returned) ∧
      (s.port.linkService = none → m = s.sram) ∧
      ∀ l : LinkBurst, s.port.linkService = some l →
        ∃ k : Nat, k ≤ l.data.length ∧ m = if l.write then Memory.writeBurst s.sram l.start (l.data.take k) else s.sram

/-- R174: a step that takes the part into DRAINED leaves every commit and every line IDLE, nothing dirty, no write in
flight, and SUPPLY_FAIL still asserted; and every step keeps the invariant of DRAINED, so that a step that stays there
leaves all of that as it was. What `finish` closes an act with is notes/assumptions/18. -/
def Obligations.DrainedOnlyWhenAllIsSaved : Prop :=
  (∀ s t : State, step s = .next t → s.part ≠ .drained → t.part = .drained → t.saved ∧ t.pins.supplyFail = true) ∧
  (∀ s t : State, DrainInv s → step s = .next t → DrainInv t) ∧
  ∀ s t : State, DrainInv s → step s = .next t → s.part = .drained → t.part = .drained →
    t.saved ∧ t.pins.supplyFail = true

/-- What closes an act (R114, R115, R174): the writer's choice while no write is in flight, by its table, and in DRAIN
the entry to DRAINED with its notice. That the choice is made once, at the act's end, is notes/assumptions/18. -/
def Obligations.WriterChoosesAndDrainEnds : Prop :=
  (∀ (r : Registry) (afterEntry : Bool),
    (r.header.dirty = true → afterEntry = true → r.choose afterEntry = some .header) ∧
    (¬(r.header.dirty = true ∧ afterEntry = true) →
      (∀ e : EntryIx, r.entries[e].dirty = true →
        (∀ f : EntryIx, r.entries[f].dirty = true →
          (e.val + 47 - r.position.val) % 48 ≤ (f.val + 47 - r.position.val) % 48) →
        r.choose afterEntry = some (.entry e)) ∧
      ((∀ e : EntryIx, r.entries[e].dirty = false) →
        r.choose afterEntry = if r.header.dirty then some .header else none))) ∧
  (∀ (s : State) (a : Bool),
    ((s.part ≠ .ready ∧ s.part ≠ .drain) ∨ s.registry.write ≠ none ∨ s.registry.choose a = none →
      writerTurn a s = s) ∧
    ((s.part = .ready ∨ s.part = .drain) → s.registry.write = none →
      (∀ e : EntryIx, s.registry.choose a = some (.entry e) →
        let v := s.registry.entries[e].saved
        writerTurn a s = { s with registry := { s.registry with
          entries := upd s.registry.entries e fun n => { n with dirty := false, check := entryCheck e v },
          write := some (.entry e v (entryCheck e v)), position := e } }) ∧
      (s.registry.choose a = some .header →
        let h := s.registry.header
        writerTurn a s = { s with registry := { s.registry with
          header := { h with dirty := false, check := headerCheck h.sequence h.writtenOff },
          write := some (.header h.sequence h.writtenOff (headerCheck h.sequence h.writtenOff)) } }))) ∧
  ∀ s : State,
    let u := writerTurn false s
    (u.part ≠ .drain ∨ ¬u.saved → finish s = u) ∧
    (u.part = .drain → u.saved →
      let d := post .drained none []
        { u with part := .drained, ctx := updAll u.ctx fun _ c => { c with absence := .stopped } }
      finish s = if u.pins.supplyFail then d else restart d)

/-- REGISTRY_WRITE_COMPLETE (R115, R116): a success leaves the snapshot in the array; a failure leaves the old content or
a torn one (a free value, notes/assumptions/3; a content whose check does not match is taken as torn,
notes/assumptions/15), marks what failed dirty again and posts REGISTRY_FAULT; the writer then chooses, and `finish`
closes the act (notes/assumptions/18). With no write in flight the command changes nothing (notes/assumptions/8). -/
def Obligations.RegistryWriteReported : Prop :=
  ∀ s : State, s.powered = true →
    (∀ ok : Bool, s.registry.write = none → exec (.registryWriteComplete ok) s = .next s) ∧
    (∀ (e : EntryIx) (v : Saved) (c : BitVec 32), s.registry.write = some (.entry e v c) →
      exec (.registryWriteComplete true) s = .next (finish (writerTurn true
        { s with registry := { s.registry with write := none },
                 array := { s.array with slots := upd s.array.slots e fun _ => .stored v c } })) ∧
      ∃ x : StoredSlot, (x = s.array.slots[e] ∨ x = .torn) ∧
        exec (.registryWriteComplete false) s = .next (finish (writerTurn true (post .registryFault none (toLE 1 e.val)
          { s with registry := { s.registry with write := none,
                                                 entries := upd s.registry.entries e fun n => { n with dirty := true } },
                   array := { s.array with slots := upd s.array.slots e fun _ => x },
                   freeCount := s.freeCount + 1 })))) ∧
    ∀ (q w : Nat) (c : BitVec 32), s.registry.write = some (.header q w c) →
      exec (.registryWriteComplete true) s = .next (finish (writerTurn false
        { s with registry := { s.registry with write := none }, array := { s.array with header := .stored q w c } })) ∧
      ∃ x : StoredHeader, (x = s.array.header ∨ x = .torn) ∧
        exec (.registryWriteComplete false) s = .next (finish (writerTurn false (post .registryFault none (toLE 1 255)
          { s with registry := { s.registry with write := none, header := { s.registry.header with dirty := true } },
                   array := { s.array with header := x }, freeCount := s.freeCount + 1 })))

/-! ### RESET_N -/

/-- LINK_RESET (R171, R20, R56, R61, R144): the port is IDLE with nothing outstanding, a link transaction on a line
becomes an orphan, waiting link claims are withdrawn, and an open swath ends, with the handovers of R52 and R53
(`swathEndTo`, as SwathFallEndsTheSwath states it), and waits for SWATH to fall. RESET_N (R144): bytes are ignored while it
stays asserted, and its deassertion moves the level alone. What `finish` closes the act with is notes/assumptions/18. -/
def Obligations.LinkResetAndResetN : Prop :=
  (∀ s : State, s.powered = true →
    let u : State := { s with
      pins := { s.pins with resetN := true },
      link := { state := .idle, buffer := [], badFrame := false, byteTimer := .stopped, outstanding := none,
                overrun := false, quietTimer := .stopped,
                orphan := Vector.ofFn fun b : Bay => s.link.orphan[b] || s.lines[b].servesLink },
      port := { s.port with linkClaim := none, runCount := 0,
                            linkService := s.port.linkService.map fun l => { l with discarded := true } },
      lines := Vector.ofFn fun b : Bay => { s.lines[b] with waiting := { s.lines[b].waiting with link := none } } }
    (s.tracker.state ≠ .openSwath → exec .linkReset s = .next (finish u)) ∧
    (s.tracker.state = .openSwath →
      let t := swathEndTo .waitLow u
      exec .linkReset s = .next (finish t) ∧ t.link = u.link ∧ t.port = u.port ∧ t.lines = u.lines ∧
        t.tracker = { state := .waitLow, number := s.tracker.number, gate := .replicate 8 false,
                      owner := .replicate 8 none, limit := .stopped } ∧
        t.part = s.part ∧ t.meter = s.meter ∧ t.fire = s.fire ∧ t.sram = s.sram ∧ t.array = s.array ∧ t.pins = u.pins)) ∧
  (∀ s : State, exec .resetNDeasserted s = .next { s with pins := { s.pins with resetN := false } }) ∧
  ∀ (v : Byte) (s : State), s.powered = true → s.pins.resetN = true →
    exec (.linkFrameByte v) s = .next s ∧ exec (.linkRequest v) s = .next s ∧ exec (.linkOverrunByte v) s = .next s

/-! ### Presence, admission and departure -/

/-- PRESENCE_ASSERTED (R22 to R25), by the bay's state, the part state and the absence timer; and PRESENCE_DROPPED (R22, R24,
R25): outside EMPTY, in READY or DRAIN, the absence timer starts towards 2 ms and a settle timer stops. -/
def Obligations.PresenceEdgesAreDebounced : Prop :=
  ∀ (b : Bay) (s : State), s.powered = true →
    let u : State := { s with pins := { s.pins with presence := upd s.pins.presence b fun _ => true } }
    let acts := s.part = .ready ∨ s.part = .drain
    let c := s.ctx[b]
    (c.state = .empty → s.part = .ready →
      exec (.presenceAsserted b) s = .next { u with
        ctx := upd s.ctx b fun c => { c with state := .settling, settle := .running 50000 } }) ∧
    (c.state = .empty → s.part ≠ .ready → exec (.presenceAsserted b) s = .next u) ∧
    (c.state ≠ .empty → ¬acts ∨ c.absence = .stopped → exec (.presenceAsserted b) s = .next u) ∧
    (c.state = .settling → acts → c.absence ≠ .stopped →
      exec (.presenceAsserted b) s = .next { u with
        ctx := upd s.ctx b fun c => { c with absence := .stopped, settle := .running 50000 } }) ∧
    (c.state ≠ .empty → c.state ≠ .settling → acts → c.absence ≠ .stopped →
      exec (.presenceAsserted b) s = .next { u with ctx := upd s.ctx b fun c => { c with absence := .stopped } }) ∧
    let d : State := { s with pins := { s.pins with presence := upd s.pins.presence b fun _ => false } }
    (c.state ≠ .empty → acts →
      exec (.presenceDropped b) s = .next { d with
        ctx := upd s.ctx b fun c => { c with settle := .stopped, absence := .running 2000 } }) ∧
    (c.state = .empty ∨ ¬acts → exec (.presenceDropped b) s = .next d)

/-- SETTLE_TIMER_EXPIRY (R24, R28): the bay enters IDENTIFYING and claims its line for the PEEK of page 0, which an IDLE
line serves at once. Where no settle timer runs in SETTLING nothing changes (notes/assumptions/8). -/
def Obligations.SettleExpiryClaimsPageZero : Prop :=
  ∀ (b : Bay) (s : State), s.powered = true →
    let c : Claim := { claimant := .admission, command := .peek, page := 0, offset := 0, length := 32, data := [] }
    let ctx' := upd s.ctx b fun c => { c with state := .identifying, settle := .stopped, awaitLine := true }
    let starts := s.lines[b].state = .idle ∧ s.part ≠ .drain ∧ s.part ≠ .drained
    let runs := s.ctx[b].state = .settling ∧ s.ctx[b].settle ≠ .stopped
    (runs → starts →
      exec (.settleTimerExpiry b) s = .next { s with
        ctx := ctx'
        lines := upd s.lines b fun u =>
          { u with state := .request, waiting := { u.waiting with admission := none }, lastLink := false,
                   sending := u.quiet, quiet := false,
                   current := some { claim := c, phase := .first, isRepeat := false, retries := 0, storeSent := false,
                                     limitPassed := false } } }) ∧
    (runs → ¬starts →
      exec (.settleTimerExpiry b) s = .next { s with
        ctx := ctx', lines := upd s.lines b fun u => { u with waiting := { u.waiting with admission := some c } } }) ∧
    (¬runs → exec (.settleTimerExpiry b) s = .next s)

/-- ABSENCE_TIMER_EXPIRY (R19, R26, R40, R136, R152): what a departure leaves of the bay in every block; and a bay without
an owner posts BAY_DEPARTED with folded volume 0 and doubt "no", and moves nothing else in the pool or the registry. The
order of the pieces is notes/assumptions/20, that the abandoned line keeps its quiet flag is the model's choice
(notes/assumptions/17), and what `finish` closes the act with is notes/assumptions/18. -/
def Obligations.DepartureEmptiesTheBay : Prop :=
  ∀ (b : Bay) (n : Nat) (s : State), s.powered = true → s.ctx[b].state ≠ .empty → s.ctx[b].absence = .running n →
    (s.commits[b].state ≠ .idle → s.ctx[b].owner ≠ none) →
    ∃ t : State, exec (.absenceTimerExpiry b) s = .next (finish t) ∧
      t.ctx[b] = BayContext.reset ∧
      t.lines[b] = { s.lines[b] with state := .idle, current := none, waiting := ⟨none, none, none, none⟩,
                                     lastLink := false, replyTimer := .stopped, pollTimer := .stopped,
                                     limitTimer := .stopped, sending := false } ∧
      t.marks[b].list = [] ∧ t.marks[b].inHand = none ∧
      t.commits[b].state = .idle ∧ t.commits[b].lowPosted = false ∧
      (∀ r ∈ t.proof.fifo, r.bay ≠ b) ∧ (∀ r : ProofRequest, t.proof.service = some r → r.bay = b → r.cancelled = true) ∧
      b ∉ t.registry.heldLookups ∧ t.link.orphan[b] = false ∧
      (∀ (x : LinkTransaction) (r : LinkRequest), s.link.outstanding = some x → x.request = some r →
        r.space = .supply → r.addr.toNat < 8192 → supplyBay r.addr = b → x.response = none →
        t.link.state = .responding ∧
          ∃ y : LinkTransaction, t.link.outstanding = some y ∧ y.response = some { status := .absent, data := [] }) ∧
      t.tracker = s.tracker ∧ t.meter = s.meter ∧ t.part = s.part ∧
      (s.ctx[b].owner = none →
        t.notices = (post .bayDeparted (some b) (toLE 8 0 ++ [0x00#8]) s).notices ∧
        t.registry = { s.registry with heldLookups := s.registry.heldLookups.filter fun c => c != b } ∧
        t.pool.pend = s.pool.pend ∧ t.pool.batch = s.pool.batch ∧ t.pool.carry = s.pool.carry ∧
        t.pool.records = s.pool.records)

/-- A departure's account (R26, R77, R78, R98, R99, R111): no commit, a commit whose STORE was not sent, and one whose
STORE was sent, in a bay whose owner is `e`, no amount passing 2^56 − 1 fl, each with its BAY_DEPARTED; and the lookup
held first on the entry's serial, which the departure answers last (R109). The order of the pieces is
notes/assumptions/20, and what `finish` closes the act with is notes/assumptions/18. -/
def Obligations.DepartureFoldsTheBaysVolume : Prop :=
  ∀ (b : Bay) (e : EntryIx) (n : Nat) (s : State), s.powered = true → s.ctx[b].state ≠ .empty →
    s.ctx[b].absence = .running n → s.ctx[b].owner = some e → s.pool.Partitioned →
    let c := s.commits[b]
    let x := s.registry.entries[e].saved
    let waits := s.pool.pend[b].total + s.pool.carry[b]
    let batch := s.pool.batch[b].total + c.batchCarry
    let left := s.registry.heldLookups.filter fun d => d != b
    let asks (d : Bay) : Prop := pageSerial (s.ctx[d].identity.getD []) = x.serial
    x.debt + waits + batch ≤ 2 ^ 56 - 1 →
    ∃ t : State,
      t.pool.pend[b] = Queue.empty ∧ t.pool.carry[b] = 0 ∧ t.ctx = upd s.ctx b (fun _ => BayContext.reset) ∧
      t.registry.entries[e].inBay = none ∧ t.registry.entries[e].dirty = true ∧ t.registry.header = s.registry.header ∧
      t.registry.heldLookups = left ∧
      (c.state = .idle →
        t.registry.entries[e].saved = { x with debt := x.debt + waits } ∧
        t.notices = (post .bayDeparted (some b) (toLE 8 waits ++ [0x00#8]) s).notices) ∧
      (c.state ≠ .idle → s.lines[b].commitStoreSent = false →
        t.pool.batch[b] = Queue.empty ∧
        t.registry.entries[e].saved = { x with
          debt := x.debt + waits + batch, residue := x.residue + c.batchResidue } ∧
        t.notices = (post .bayDeparted (some b) (toLE 8 (waits + batch) ++ [0x00#8]) s).notices) ∧
      (c.state ≠ .idle → s.lines[b].commitStoreSent = true →
        t.pool.batch[b] = Queue.empty ∧
        t.registry.entries[e].saved = { x with
          debt := x.debt + waits,
          doubt := some { priorLevel := c.priorLevel, priorUse := c.priorUse, expectedLevel := c.newLevel,
                          expectedUse := c.newUse, total := c.total, overdraw := c.excess } } ∧
        t.notices = (post .bayDeparted (some b) (toLE 8 waits ++ [0x01#8]) s).notices) ∧
      ((∀ d ∈ left, ¬asks d) → exec (.absenceTimerExpiry b) s = .next (finish t)) ∧
      ∀ (pre suf : List Bay) (d : Bay), left = pre ++ d :: suf → asks d → (∀ a ∈ pre, ¬asks a) →
        exec (.absenceTimerExpiry b) s = .next (finish (checkingComplete d { t with
          registry := { t.registry with heldLookups := left.filter fun a => a != d } }))

/-- IDLE_FLUSH_EXPIRY (R83, R85): a running timer becomes elapsed, and a commit that this makes due starts. With no timer
running nothing changes (notes/assumptions/8) but what `finish` closes the act with (notes/assumptions/18). -/
def Obligations.IdleFlushElapsesAndJudges : Prop :=
  ∀ (b : Bay) (s : State), s.powered = true →
    let u : State := { s with commits := upd s.commits b fun c => { c with flush := .elapsed } }
    (∀ n : Nat, s.commits[b].flush = .running n → commitDue u b = none →
      exec (.idleFlushExpiry b) s = .next (finish u)) ∧
    (∀ (n : Nat) (e : EntryIx), s.commits[b].flush = .running n → commitDue u b = some e →
      exec (.idleFlushExpiry b) s = .next (finish (commitStart b e u))) ∧
    ((∀ n : Nat, s.commits[b].flush ≠ .running n) → exec (.idleFlushExpiry b) s = .next (finish s))

/-! ### Swaths and gates -/

/-- SWATH_RISE (R48 to R50): in NO_SWATH and READY a swath starts, numbered one higher, with every tally 0 and every gate
latched by R50, the gate of a bay without an owner CLOSED; each commit engine then judges. Any other rise moves the level
alone. What `finish` closes the act with is notes/assumptions/18. -/
def Obligations.SwathRiseLatchesTheGates : Prop :=
  ∀ s : State, s.powered = true →
    let u : State := { s with pins := { s.pins with swath := true } }
    (s.tracker.state = .noSwath → s.part = .ready →
      ∃ g : Vector Bool 8, ∃ o : Vector (Option EntryIx) 8,
        exec .swathRise s = .next (finish (forBays judge { u with
          tracker := { state := .openSwath, number := s.tracker.number + 1, gate := g, owner := o,
                       limit := .running (s.profile.swathLimitMs * 1000) }
          meter := { tally := .replicate 8 0, saturated := .replicate 8 false }
          commits := updAll s.commits fun _ c => { c with flush := .stopped } })) ∧
        ∀ b : Bay, o[b] = gateOwner s b ∧ g[b] = o[b].isSome ∧
          (s.ctx[b].owner = none → g[b] = false ∧ o[b] = none) ∧
          ∀ e : EntryIx, s.ctx[b].owner = some e →
            (g[b] = true ↔
              s.ctx[b].sticky = ⟨false, false⟩ ∧
                ((s.ctx[b].state = .admitted ∧ s.ctx[b].action = some .accept) ∨
                  (s.ctx[b].state = .limited ∧ s.ctx[b].action = some .limit ∧
                    0 < s.registry.entries[e].saved.allowance))) ∧
            o[b] = if g[b] then some e else none) ∧
    (s.tracker.state ≠ .noSwath ∨ s.part ≠ .ready → exec .swathRise s = .next (finish u))

/-- SWATH_FALL (R48, R52, R53, R83): in OPEN the swath ends: the OPEN gates hand over in ascending bay order, each its tally
to the debit pool and its draw to the verdict unit, then every gate is CLOSED and every owner none, the tallies kept and
each idle-flush timer started from 0, and each commit engine judges; in WAIT_LOW the tracker waits no longer; in NO_SWATH
nothing else moves. Which commits a handover judges is notes/assumptions/22, and what `finish` closes the act with is
notes/assumptions/18. -/
def Obligations.SwathFallEndsTheSwath : Prop :=
  (∀ (f : Bay → State → State) (s : State), forBays f s = f 7 (f 6 (f 5 (f 4 (f 3 (f 2 (f 1 (f 0 s)))))))) ∧
  (∀ (b : Bay) (s : State),
    (s.tracker.gate[b] = false ∨ s.tracker.owner[b] = none → handover b s = s) ∧
    ∀ e : EntryIx, s.tracker.gate[b] = true → s.tracker.owner[b] = some e →
      let v := s.meter.tally[b]
      let placed := if v = 0 then s else placeTally b e s.tracker.number v s
      let judged := judge b (drawAllowance b e v placed)
      ((∀ c : Bay, judged.ctx[c].owner ≠ some e) → handover b s = judged) ∧
      ∀ c : Bay, judged.ctx[c].owner = some e → (∀ d : Bay, judged.ctx[d].owner = some e → d = c) →
        handover b s = judge c judged) ∧
  (∀ (next : TrackerState) (s : State),
    let h := forBays handover { s with tracker := { s.tracker with limit := .stopped } }
    let j := forBays judge { h with
      tracker := { h.tracker with gate := .replicate 8 false, owner := .replicate 8 none }
      commits := updAll h.commits fun b c => { c with flush := .running (s.profile.bays[b].idleFlush * 100000) } }
    swathEnd s = j ∧ swathEndTo next s = { j with tracker := { j.tracker with state := next } }) ∧
  ∀ s : State, s.powered = true →
    let u : State := { s with pins := { s.pins with swath := false } }
    (s.tracker.state = .openSwath →
      let t := swathEndTo .noSwath u
      exec .swathFall s = .next (finish t) ∧
        t.tracker = { state := .noSwath, number := s.tracker.number, gate := .replicate 8 false,
                      owner := .replicate 8 none, limit := .stopped } ∧
        (∀ b : Bay, t.commits[b].flush = .running (s.profile.bays[b].idleFlush * 100000)) ∧
        t.meter = s.meter ∧ t.lines = s.lines ∧ t.link = s.link ∧ t.marks = s.marks ∧ t.sram = s.sram ∧
        t.array = s.array ∧ t.fire = s.fire ∧ t.port = s.port ∧ t.part = s.part ∧ t.pins = u.pins) ∧
    (s.tracker.state = .openSwath → (∀ b : Bay, s.tracker.gate[b] = false) →
      let v : State := { u with
        tracker := { state := .noSwath, number := s.tracker.number, gate := .replicate 8 false,
                     owner := .replicate 8 none, limit := .stopped }
        commits := updAll s.commits fun b c => { c with flush := .running (s.profile.bays[b].idleFlush * 100000) } }
      (∀ b : Bay, commitDue v b = none) → exec .swathFall s = .next (finish v)) ∧
    (s.tracker.state = .waitLow →
      exec .swathFall s = .next (finish { u with tracker := { s.tracker with state := .noSwath } })) ∧
    (s.tracker.state = .noSwath → exec .swathFall s = .next (finish u))

/-- SWATH_LIMIT_EXPIRY (R54): in OPEN a swath end, with the handovers of R52 and R53 (`swathEnd`, as SwathFallEndsTheSwath
states it), then a swath start that latches the gates afresh on what the end left, then SWATH_SPLIT with the new number.
Outside OPEN, or with the timer stopped, nothing changes (notes/assumptions/8) but what `finish` closes the act with
(notes/assumptions/18). -/
def Obligations.SwathLimitSplitsTheSwath : Prop :=
  ∀ s : State, s.powered = true →
    (∀ n : Nat, s.tracker.state = .openSwath → s.tracker.limit = .running n →
      let e := swathEnd s
      let t := forBays judge { e with
        tracker := { state := .openSwath, number := s.tracker.number + 1,
                     gate := Vector.ofFn fun b : Bay => (gateOwner e b).isSome,
                     owner := Vector.ofFn fun b : Bay => gateOwner e b,
                     limit := .running (s.profile.swathLimitMs * 1000) }
        meter := { tally := .replicate 8 0, saturated := .replicate 8 false }
        commits := updAll e.commits fun _ c => { c with flush := .stopped } }
      exec .swathLimitExpiry s = .next (finish (post .swathSplit none (toLE 2 (s.tracker.number + 1).toNat) t)) ∧
        t.tracker.state = .openSwath ∧ t.tracker.number = s.tracker.number + 1 ∧
        t.tracker.limit = .running (s.profile.swathLimitMs * 1000) ∧
        (∀ b : Bay, t.tracker.owner[b] = gateOwner e b ∧ t.tracker.gate[b] = t.tracker.owner[b].isSome ∧
          t.meter.tally[b] = 0 ∧ t.meter.saturated[b] = false ∧ t.commits[b].flush = .stopped) ∧
        t.part = s.part ∧ t.lines = s.lines ∧ t.link = s.link ∧ t.marks = s.marks ∧ t.sram = s.sram ∧
        t.array = s.array ∧ t.fire = s.fire ∧ t.port = s.port ∧ t.pins = s.pins) ∧
    (s.tracker.state ≠ .openSwath ∨ s.tracker.limit = .stopped → exec .swathLimitExpiry s = .next (finish s))

/-- R72 to R74, with R66 and R67: where a handed-over tally goes, by the first row that applies. An addition to carry (R70)
or to debt (R112) stops at 2^56 − 1 fl; what passes it is written off (R105): the written-off total takes it and
saturates at 2^64 − 1 fl, the header is dirty, and DEBT_WRITTEN_OFF carries the amount and the new total (R185), for the
bay of the carry, and for the bay the entry of the debt owns, or the device. -/
def Obligations.HandedTallyReachesItsOwner : Prop :=
  ∀ (b : Bay) (e : EntryIx) (w : BitVec 16) (v : Nat) (s : State), s.pool.Partitioned →
    let t := placeTally b e w v s
    let most := 2 ^ 56 - 1
    let writtenOff (who : Option Bay) (sum : Nat) (u : State) : State :=
      if sum ≤ most then u
      else
        let total := min (2 ^ 64 - 1) (u.registry.header.writtenOff + (sum - most))
        post .debtWrittenOff who (toLE 6 (min (sum - most) (2 ^ 48 - 1)) ++ toLE 6 (min total (2 ^ 48 - 1)))
          { u with registry := { u.registry with header :=
              { u.registry.header with writtenOff := total, dirty := true } } }
    let inDebt : State :=
      writtenOff s.registry.entries[e].inBay (s.registry.entries[e].saved.debt + v)
        { s with registry := { s.registry with entries := upd s.registry.entries e fun n =>
          { n with saved := { n.saved with debt := min (n.saved.debt + v) most }, dirty := true } } }
    let inCarry (c : Bay) : State :=
      writtenOff (some c) (s.pool.carry[c] + v)
        { s with pool := { s.pool with carry := upd s.pool.carry c fun x => min (x + v) most } }
    (s.part = .drain → t = inDebt) ∧
    (s.part ≠ .drain → s.ctx[b].owner = some e →
      (∀ r : RecordIx, s.pool.free.head = some r →
        t.pool.free.count + 1 = s.pool.free.count ∧ t.pool.free.head = s.pool.records[r].link ∧
        t.pool.records[r] = { link := none, swath := w, volume := v } ∧
        t.pool.pend[b].tail = some r ∧ t.pool.pend[b].count = s.pool.pend[b].count + 1 ∧
        t.pool.pend[b].total = s.pool.pend[b].total + v ∧
        t.pool.pend[b].head = (if s.pool.pend[b].head = none then some r else s.pool.pend[b].head) ∧
        (∀ c : Bay, c ≠ b → t.pool.pend[c] = s.pool.pend[c]) ∧ t.pool.batch = s.pool.batch ∧
        t.pool.carry = s.pool.carry ∧ t.pool.starved = s.pool.starved ∧ t.registry = s.registry ∧
        t.notices = s.notices) ∧
      (s.pool.free.head = none →
        t = post .poolStarved (some b) []
          { inCarry b with pool := { (inCarry b).pool with
              starved := upd (inCarry b).pool.starved b fun n => min 255 (n + 1) } })) ∧
    (s.part ≠ .drain → s.ctx[b].owner ≠ some e →
      (∀ c : Bay, s.ctx[c].owner = some e → (∀ d : Bay, s.ctx[d].owner = some e → d = c) → t = inCarry c) ∧
      ((∀ c : Bay, s.ctx[c].owner ≠ some e) → t = inDebt))

/-- R128: a tally is drawn from a LIMIT entry's allowance; the draw that spends it blocks the entry and its bay and posts
ALLOWANCE_SPENT for the counting bay. That a draw in READY above 0 leaves the dirty flag as it stands, the entry's write in
flight or not, is notes/assumptions/40. -/
def Obligations.AllowanceDrawnAtSwathEnd : Prop :=
  ∀ (b : Bay) (e : EntryIx) (v : Nat) (s : State),
    let x := s.registry.entries[e].saved
    let t := drawAllowance b e v s
    (v = 0 ∨ x.held ≠ .limit → t = s) ∧
    (x.held = .limit → 0 < v → v < x.allowance ∨ x.allowance = 0 →
      t = { s with registry := { s.registry with entries := upd s.registry.entries e fun n =>
        { n with saved := { n.saved with allowance := n.saved.allowance - v },
                 dirty := n.dirty || s.part == .drain } } }) ∧
    (x.held = .limit → 0 < x.allowance → x.allowance ≤ v →
      t.registry = { s.registry with entries := upd s.registry.entries e fun n =>
        { n with saved := { n.saved with allowance := 0, held := .block }, dirty := true } } ∧
      t.notices = (post .allowanceSpent (some b) [] s).notices ∧
      ((∀ c : Bay, s.ctx[c].owner ≠ some e) → t.ctx = s.ctx) ∧
      ∀ c : Bay, s.ctx[c].owner = some e → (∀ d : Bay, s.ctx[d].owner = some e → d = c) →
        (∀ d : Bay, d ≠ c → t.ctx[d] = s.ctx[d]) ∧
        (s.ctx[c].state.settled = true → t.ctx[c] = { s.ctx[c] with action := some .block, state := .blocked }) ∧
        (s.ctx[c].state = .faulted → t.ctx[c] = { s.ctx[c] with action := some .block }))

/-- R71 over the pool, the commits and the folds: with `s.account b e` the volume in the holding places of a bay and its
owner, a commit start, a failure, an abandonment and a fold move it whole; a success takes out q × 10^9 fl; a tally adds
itself. The written-off total is taken below its saturation (R105). -/
def Obligations.MeteredVolumeIsNeitherLostNorMade : Prop :=
  ∀ (b : Bay) (e : EntryIx) (s : State), s.pool.Partitioned → s.ctx[b].owner = some e →
    s.account b e ≤ 2 ^ 64 - 1 →
    (fold b s).account b e = s.account b e ∧
    (s.pool.batch[b] = Queue.empty → s.commits[b].batchCarry = 0 → s.commits[b].batchResidue = 0 →
      (commitStart b e s).account b e = s.account b e) ∧
    (∀ r : FaultReason, (commitFailure b e r s).account b e = s.account b e) ∧
    (commitWithdrawn b e s).account b e = s.account b e ∧
    (s.CommitFormed b e → s.registry.entries[e].saved.doubt = none →
      (abandonInDoubt b e s).account b e = s.account b e) ∧
    (s.CommitFormed b e →
      (commitSuccess b e s).account b e + s.commits[b].charged * 1000000000 = s.account b e) ∧
    ∀ (w : BitVec 16) (v : Nat), s.account b e + v ≤ 2 ^ 64 - 1 →
      (placeTally b e w v s).account b e = s.account b e + v

/-! ### The fire port, the drop meter and the swath memory -/

/-- FIRE_BURST (R41): a burst of 1 to 256 bytes is taken while the port holds fewer than two, and the arbiter runs; a third
is held back. That the second is taken also while the first still waits for the arbiter is notes/assumptions/38. A burst
of another length is no command of the part and is refused: the model's choice (notes/assumptions/16). -/
def Obligations.FireBurstTakenWhileFewerThanTwo : Prop :=
  ∀ (start : Addr24) (len : Nat) (s : State), s.powered = true →
    (1 ≤ len → len ≤ 256 →
      (s.fire.service.toList.length + s.fire.waiting.length < 2 →
        exec (.fireBurst start len) s = .next (arbServe { s with
          fire := { s.fire with waiting := s.fire.waiting ++ [{ next := start, left := len }] } })) ∧
      (2 ≤ s.fire.service.toList.length + s.fire.waiting.length → exec (.fireBurst start len) s = .next s)) ∧
    (len = 0 ∨ 256 < len → exec (.fireBurst start len) s = .refused (.notACommand "FIRE_BURST"))

/-- R60: which burst an IDLE port serves, and the run count after it; the arbiter runs when the port becomes IDLE and when a
claim of the fire port or of the link arrives. That a second fire burst is taken also while the first still waits for the
arbiter is notes/assumptions/38. -/
def Obligations.ArbiterFollowsItsTable : Prop :=
  ∀ s : State,
    (s.port.use ≠ .idle → arbServe s = s) ∧
    (s.port.use = .idle →
      (s.fire.waiting = [] → s.port.linkClaim = none → arbServe s = s) ∧
      (∀ (f : FireBurst) (fs : List FireBurst), s.fire.waiting = f :: fs →
        (s.port.linkClaim = none →
          arbServe s = { s with fire := { s.fire with service := some f, waiting := fs },
                                port := { s.port with use := .fire } }) ∧
        (s.port.linkClaim ≠ none → s.port.runCount < 4 →
          arbServe s = { s with fire := { s.fire with service := some f, waiting := fs },
                                port := { s.port with use := .fire, runCount := s.port.runCount + 1 } })) ∧
      ∀ l : LinkBurst, s.port.linkClaim = some l → s.fire.waiting = [] ∨ 4 ≤ s.port.runCount →
        arbServe s = { s with port := { use := .link, linkClaim := none, linkService := some l, runCount := 0 } }) ∧
    portFree s = arbServe { s with port := { s.port with use := .idle, linkService := none } } ∧
    (∀ (start : Addr24) (len : Nat), s.powered = true → 1 ≤ len → len ≤ 256 →
      s.fire.service.toList.length + s.fire.waiting.length < 2 →
      exec (.fireBurst start len) s = .next (arbServe { s with
        fire := { s.fire with waiting := s.fire.waiting ++ [{ next := start, left := len }] } })) ∧
    ∀ r : LinkRequest, r.space = .swath →
      routeRequest r s = arbServe { s with port := { s.port with
        linkClaim := some { write := r.write, start := r.addr, len := r.len, data := r.data, discarded := false } } }

/-- R42 to R46: what one byte read at an address becomes. `covers` is R42's cover, and the volume of a byte is R43's. -/
def Obligations.MeterFollowsItsTable : Prop :=
  ∀ (a : Addr24) (v : Byte) (s : State),
    let covers (e : PlaneEntry) : Prop := e.enabled = true ∧ e.base ≤ a.toNat ∧ a.toNat < e.base + e.length
    (s.part = .loading ∨ s.part = .noProfile ∨ s.copies = none → meterByte a v s = (s, 0x00#8)) ∧
    ∀ p : Profile, s.copies = some p → s.part = .ready ∨ s.part = .drain ∨ s.part = .drained →
      ((∀ e ∈ p.planes, ¬covers e) → meterByte a v s = (s, v)) ∧
      ∀ b : Bay, (∃ e ∈ p.planes, covers e) → (∀ e ∈ p.planes, covers e → e.bay = b) →
        let weight (code : Nat) : Nat :=
          if code = 1 then p.bays[b].small else if code = 2 then p.bays[b].medium else if code = 3 then p.bays[b].large
          else 0
        let n := v.toNat
        let volume := weight (n % 4) + weight (n / 4 % 4) + weight (n / 16 % 4) + weight (n / 64)
        (s.part ≠ .ready → meterByte a v s = (s, 0x00#8)) ∧
        (s.part = .ready → s.tracker.state ≠ .openSwath →
          meterByte a v s = (post .strayRead (some b) (toLE 3 a.toNat) s, 0x00#8)) ∧
        (s.part = .ready → s.tracker.state = .openSwath →
          (s.tracker.gate[b] = false ∨ s.meter.saturated[b] = true → meterByte a v s = (s, 0x00#8)) ∧
          (s.tracker.gate[b] = true → s.meter.saturated[b] = false →
            (s.meter.tally[b] + volume ≤ 2 ^ 48 - 1 →
              meterByte a v s =
                ({ s with meter := { s.meter with tally := upd s.meter.tally b fun x => x + volume } }, v)) ∧
            (2 ^ 48 - 1 < s.meter.tally[b] + volume →
              meterByte a v s =
                (post .tallySaturated (some b) []
                  { s with meter := { s.meter with saturated := upd s.meter.saturated b fun _ => true } }, 0x00#8))))

/-- FIRE_BYTE (R41, R44): the next byte of the burst in service is read from the SRAM, metered and returned; the last one
completes the burst. With no burst in service nothing is read (notes/assumptions/8). -/
def Obligations.FireByteReadMeteredAndReturned : Prop :=
  ∀ s : State, s.powered = true →
    (s.fire.service = none → exec .fireByte s = .next s) ∧
    ∀ f : FireBurst, s.fire.service = some f →
      let m := meterByte f.next (Memory.read s.sram f.next.toNat) s
      (1 < f.left → exec .fireByte s = .next { m.1 with
        fire := { service := some { next := f.next + 1, left := f.left - 1 }, waiting := s.fire.waiting,
                  returned := [m.2] } }) ∧
      (f.left ≤ 1 → exec .fireByte s = .next (portFree { m.1 with
        fire := { service := none, waiting := s.fire.waiting, returned := [m.2] } }))

/-- LINK_BURST_DONE (R58, R61, R145): a write's bytes are in the SRAM at their addresses, wrapping above 0xFFFFFF, and every
other byte is as before; a read's bytes are in the response; a burst that a link reset discarded is not answered. With no
link burst in service nothing changes (notes/assumptions/8). -/
def Obligations.LinkBurstStoresOrReturnsItsBytes : Prop :=
  (∀ s : State, s.powered = true →
    (s.port.linkService = none → exec .linkBurstDone s = .next s) ∧
    ∀ l : LinkBurst, s.port.linkService = some l →
      let m := if l.write then Memory.writeBurst s.sram l.start l.data else s.sram
      let d := if l.write then [] else Memory.readBurst s.sram l.start l.len
      (l.discarded = true → exec .linkBurstDone s = .next (portFree { s with sram := m })) ∧
      (∀ x : LinkTransaction, l.discarded = false → s.link.outstanding = some x → x.response = none →
        exec .linkBurstDone s = .next (portFree { s with
          sram := m
          link := { s.link with
            state := .responding
            outstanding := some { x with waitsOrphan := false, response := some { status := .done, data := d } } } })) ∧
      ((∀ x : LinkTransaction, s.link.outstanding = some x → x.response ≠ none) →
        exec .linkBurstDone s = .next (portFree { s with sram := m }))) ∧
  ∀ (m : Memory) (a : Addr24) (d : List Byte), m.wf = true → d.length ≤ 64 →
    (∀ (i : Nat) (h : i < d.length), Memory.read (Memory.writeBurst m a d) (a + BitVec.ofNat 24 i).toNat = d[i]) ∧
    (∀ x : Nat, (∀ i : Nat, i < d.length → x ≠ (a + BitVec.ofNat 24 i).toNat) →
      Memory.read (Memory.writeBurst m a d) x = Memory.read m x) ∧
    ∀ n i : Nat, i < n → (Memory.readBurst m a n)[i]? = some (Memory.read m (a + BitVec.ofNat 24 i).toNat)

/-! ### The carriage link port -/

/-- A byte on the carriage link while the port takes one (R139, R140, R142): it joins the frame, spoils it, completes it with
a right or a wrong CRC, or falls to the overrun mark. Whichever of the table's three rows brings the byte, the port's
state says what it does (notes/assumptions/9); the transaction that a frame answered BADFRAME leaves has no request
(notes/assumptions/25). -/
def Obligations.LinkByteJoinsOrEndsTheFrame : Prop :=
  ∀ (v : Byte) (c : Instr) (s : State), s.powered = true → s.pins.resetN = false →
    c = .linkFrameByte v ∨ c = .linkRequest v ∨ c = .linkOverrunByte v →
    let p := s.link
    let takes := p.state = .receiving ∨ (p.state = .idle ∧ p.overrun = false)
    let buf := p.buffer ++ [v]
    let h := buf.headD 0
    let isWrite := h = 0xC1#8 ∨ h = 0xC3#8
    let isRead := h = 0xC0#8 ∨ h = 0xC2#8
    let n := (buf.getD 4 0).toNat
    let spoilt := (buf.length = 1 ∧ ¬isWrite ∧ ¬isRead) ∨ (buf.length = 5 ∧ 63 < n)
    let whole := (isRead ∧ buf.length = 7) ∨ (isWrite ∧ 5 ≤ buf.length ∧ buf.length = 8 + n)
    let good := toLE 2 (crc16 (buf.take (buf.length - 2))).toNat = buf.drop (buf.length - 2)
    (takes → p.badFrame = true → exec c s = .next { s with link := { p with byteTimer := .running 1000 } }) ∧
    (takes → p.badFrame = false → spoilt →
      exec c s = .next { s with link := { p with state := .receiving, buffer := buf, badFrame := true,
                                                 byteTimer := .running 1000 } }) ∧
    (takes → p.badFrame = false → ¬spoilt → ¬whole →
      exec c s = .next { s with link := { p with state := .receiving, buffer := buf, byteTimer := .running 1000 } }) ∧
    (takes → p.badFrame = false → ¬spoilt → whole → ¬good →
      exec c s = .next { s with link := { p with
        state := .responding, buffer := [], badFrame := false, byteTimer := .stopped
        outstanding := some { request := none, route := .immediate .badFrame, waitsOrphan := false,
                              response := some { status := .badFrame, data := [] } } } }) ∧
    (takes → p.badFrame = false → ¬spoilt → whole → good →
      let r : LinkRequest :=
        { write := decide isWrite, space := if h = 0xC2#8 ∨ h = 0xC3#8 then .supply else .swath,
          addr := BitVec.ofNat 24 (field buf 1 3), len := n + 1, data := if isWrite then (buf.drop 5).take (n + 1) else [] }
      exec c s = .next (routeRequest r { s with link := { p with
        state := .awaitingService, buffer := [], byteTimer := .stopped
        outstanding := some { request := some r, route := routeOf s r, waitsOrphan := false, response := none } } })) ∧
    (p.state = .idle → p.overrun = true →
      exec c s = .next { s with link := { p with quietTimer := .running 1000 } })

/-- R142: the first byte while a transaction is outstanding sets the overrun mark and posts LINK_ERROR BUSY, every later one
restarts the quiet timer, in IDLE too, and 1 ms of quiet clears the mark. -/
def Obligations.OverrunBytesAreIgnored : Prop :=
  ∀ s : State, s.powered = true →
    (∀ (v : Byte) (c : Instr), c = .linkFrameByte v ∨ c = .linkRequest v ∨ c = .linkOverrunByte v →
      s.pins.resetN = false → s.link.state = .awaitingService ∨ s.link.state = .responding →
      let u : State := { s with link := { s.link with overrun := true, quietTimer := .running 1000 } }
      (s.link.overrun = true → exec c s = .next u) ∧
      (s.link.overrun = false → exec c s = .next (post .linkError none [0x02#8] u))) ∧
    (∀ (v : Byte) (c : Instr), c = .linkFrameByte v ∨ c = .linkRequest v ∨ c = .linkOverrunByte v →
      s.pins.resetN = false → s.link.state = .idle → s.link.overrun = true →
      exec c s = .next { s with link := { s.link with quietTimer := .running 1000 } }) ∧
    exec .overrunQuietExpiry s = .next { s with link := { s.link with overrun := false, quietTimer := .stopped } }

/-- R140, R141, R143: the byte timer of a marked frame answers BADFRAME, that of an unmarked one discards the frame and posts
LINK_ERROR STALL; the last byte of a response clears the transaction. Each reaches only the port state it names
(notes/assumptions/8), and the transaction of a BADFRAME answer has no request (notes/assumptions/25). A response frame is
its status code of R181, its data and the CRC-16 of the bytes before, low byte first. -/
def Obligations.LinkTimersAndTheEndOfAResponse : Prop :=
  (∀ s : State, s.powered = true →
    (s.link.state = .receiving → s.link.badFrame = true →
      exec .linkBadframeTimeout s = .next { s with link := { s.link with
        state := .responding, buffer := [], badFrame := false, byteTimer := .stopped
        outstanding := some { request := none, route := .immediate .badFrame, waitsOrphan := false,
                              response := some { status := .badFrame, data := [] } } } }) ∧
    (s.link.state ≠ .receiving ∨ s.link.badFrame = false → exec .linkBadframeTimeout s = .next s) ∧
    (s.link.state = .receiving → s.link.badFrame = false →
      exec .linkStall s = .next (post .linkError none [0x01#8]
        { s with link := { s.link with state := .idle, buffer := [], byteTimer := .stopped } })) ∧
    (s.link.state ≠ .receiving ∨ s.link.badFrame = true → exec .linkStall s = .next s) ∧
    (s.link.state = .responding →
      exec .linkResponseSent s = .next { s with link := { s.link with state := .idle, outstanding := none } }) ∧
    (s.link.state ≠ .responding → exec .linkResponseSent s = .next s)) ∧
  (∀ r : LinkResponse, r.frame.length = 3 + r.data.length ∧ r.frame.headD 0 = r.status.code ∧
    r.frame.take (1 + r.data.length) = r.status.code :: r.data ∧
    r.frame.drop (1 + r.data.length) = toLE 2 (crc16 (r.frame.take (1 + r.data.length))).toNat) ∧
  LinkStatus.done.code = 0x00#8 ∧ LinkStatus.refused.code = 0x01#8 ∧ LinkStatus.absent.code = 0x02#8 ∧
    LinkStatus.notReady.code = 0x03#8 ∧ LinkStatus.failed.code = 0x04#8 ∧ LinkStatus.badFrame.code = 0x05#8

/-- R139, R181: the frame of a request, sent byte by byte to an IDLE port, is received as that request and as nothing
else: every byte but the last only joins the buffer, and the last one forms the outstanding transaction. -/
def Obligations.LinkRequestFrameReceivedWhole : Prop :=
  ∀ (r : LinkRequest) (s : State), s.powered = true → s.pins.resetN = false → s.link.badFrame = false →
    s.link.overrun = false → 1 ≤ r.len → r.len ≤ 64 → r.data.length = (if r.write then r.len else 0) →
    let n := r.frame.length
    let receiving (k : Nat) : State := { s with link := { s.link with
      state := if k = 0 then .idle else .receiving, buffer := r.frame.take k
      byteTimer := if k = 0 then s.link.byteTimer else .running 1000 } }
    n = (if r.write then 7 + r.len else 7) ∧
    (∀ k : Nat, k + 1 < n → exec (.linkFrameByte (r.frame.getD k 0)) (receiving k) = .next (receiving (k + 1))) ∧
    exec (.linkRequest (r.frame.getD (n - 1) 0)) (receiving (n - 1)) =
      .next (routeRequest r { s with link := { s.link with
        state := .awaitingService, buffer := [], byteTimer := .stopped
        outstanding := some { request := some r, route := routeOf s r, waitsOrphan := false, response := none } } })

/-- R145 to R147: the route of a request, by its space, the part state, the form of its address, its bay's state and its page
class. `lockPasses` is R150's test of a lock-word change. -/
def Obligations.RouteFollowsTheTables : Prop :=
  ∀ (r : LinkRequest) (s : State),
    (r.space = .swath → routeOf s r = .swath) ∧
    (r.space = .supply → s.part ≠ .ready → routeOf s r = .immediate .notReady) ∧
    (r.space = .supply → s.part = .ready → 8192 ≤ r.addr.toNat → routeOf s r = .immediate .refused) ∧
    (r.space = .supply → s.part = .ready → r.addr.toNat < 8192 →
      let page := r.addr.toNat % 1024 / 32
      let offset := r.addr.toNat % 32
      (32 < offset + r.len → routeOf s r = .immediate .refused) ∧
      (offset + r.len ≤ 32 → ∀ b : Bay, b.val = r.addr.toNat / 1024 →
        let c := s.ctx[b]
        (c.state = .empty → routeOf s r = .immediate .absent) ∧
        (c.state.inAdmission = true → routeOf s r = .immediate .notReady) ∧
        (c.state = .rejected ∨ c.state = .faulted →
          (2 ≤ page → routeOf s r = .immediate .notReady) ∧
          (page < 2 → r.write = true → routeOf s r = .immediate .refused) ∧
          (page < 2 → r.write = false → routeOf s r = if c.identity = none then .immediate .notReady else .image)) ∧
        (c.state = .admitted ∨ c.state = .limited ∨ c.state = .blocked →
          (page < 4 → r.write = false → routeOf s r = .image) ∧
          (page < 3 → r.write = true → routeOf s r = .immediate .refused) ∧
          (4 ≤ page → r.write = false → routeOf s r = .passRead) ∧
          ∀ m : List Byte, c.marks = some m → m.length = 32 → r.write = true → r.data.length = r.len →
            let lockPasses := 28 ≤ offset ∧
              ∀ i : Nat, i < r.len → (r.data.getD i 0) &&& ~~~(m.getD (offset + i) 0) = 0#8
            (page = 3 → routeOf s r = if lockPasses then .passWrite else .immediate .refused) ∧
            (4 ≤ page → routeOf s r =
              if (field m 28 4).testBit page then .passWrite else .immediate .refused))))

/-- R145, R148 to R151: what the routed request does at once, the transaction not yet answered: a burst at the arbiter, an
image's bytes, a status, or a claim on the bay's line, which an orphan there holds back. Pages 0 and 1 are the two halves
of the identity image, page 2 is the level image and page 3 the marks image. -/
def Obligations.RoutedRequestServedOrAnswered : Prop :=
  ∀ (r : LinkRequest) (x : LinkTransaction) (s : State),
    s.link.outstanding = some x → x.response = none →
    let answered (y : LinkTransaction) (st : LinkStatus) (d : List Byte) : State :=
      { s with link := { s.link with
        state := .responding
        outstanding := some { y with waitsOrphan := false, response := some { status := st, data := d } } } }
    (routeOf s r = .swath →
      routeRequest r s = arbServe { s with port := { s.port with
        linkClaim := some { write := r.write, start := r.addr, len := r.len, data := r.data, discarded := false } } }) ∧
    (∀ (b : Bay) (img : List Byte), routeOf s r = .image → b = supplyBay r.addr →
      let page := r.addr.toNat % 1024 / 32
      (page = 0 ∧ ∃ id : List Byte, s.ctx[b].identity = some id ∧ img = id.take 32) ∨
        (page = 1 ∧ ∃ id : List Byte, s.ctx[b].identity = some id ∧ img = (id.drop 32).take 32) ∨
        (page = 2 ∧ s.ctx[b].level = some img) ∨ (page = 3 ∧ s.ctx[b].marks = some img) →
      routeRequest r s = answered x .done ((img.drop (r.addr.toNat % 32)).take r.len)) ∧
    (∀ st : LinkStatus, routeOf s r = .immediate st → st ≠ .refused ∨ r.write = false →
      routeRequest r s = answered { x with route := .immediate st } st []) ∧
    (routeOf s r = .immediate .refused → r.write = true →
      routeRequest r s =
        let t := answered { x with route := .immediate .refused } .refused []
        { post .refusedWrite (if r.addr.toNat < 8192 then some (supplyBay r.addr) else none)
            (0x01#8 :: toLE 3 r.addr.toNat) s with link := t.link }) ∧
    (∀ b : Bay, b = supplyBay r.addr → routeOf s r = .passRead ∨ routeOf s r = .passWrite →
      (s.link.orphan[b] = true →
        routeRequest r s = { s with link := { s.link with outstanding := some { x with waitsOrphan := true } } }) ∧
      (s.link.orphan[b] = false →
        let c : Claim := { claimant := .link, command := if r.write then .store else .peek,
                           page := r.addr.toNat % 1024 / 32, offset := r.addr.toNat % 32, length := r.len,
                           data := r.data }
        screenPasses s.ctx[b] c = true →
        routeRequest r s =
          arbitrate b { s with lines := upd s.lines b fun u => { u with waiting := { u.waiting with link := some c } } }))

/-- R144, R149, R150: the answer to a pass-through transaction by its outcome; a successful lock-word STORE is ANDed into
the lock image whether or not the transaction is still the port's; and an orphan's outcome is answered to nobody, while a
transaction that waited for the orphan makes its claim, a write only if it passes the test of R150 against the lock image
as it then stands (`linkWritePasses`, R150's test as RouteFollowsTheTables and WriteScreenPassesOnlyItsShapes state it),
and is answered REFUSED otherwise. -/
def Obligations.PassThroughAnsweredByItsOutcome : Prop :=
  ∀ (b : Bay) (c : Claim) (o : LineOutcome) (s : State),
    let t := linkOutcome b c o s
    let answer : LinkResponse := match o with
      | .success d => { status := .done, data := d }
      | .abandoned _ => { status := .absent, data := [] }
      | .withdrawn => { status := .notReady, data := [] }
      | .denied | .programFailed | .silent | .garbled => { status := .failed, data := [] }
    ∃ u : State, u = { s with ctx := u.ctx } ∧ (∀ a : Bay, a ≠ b → u.ctx[a] = s.ctx[a]) ∧
      (∀ m d : List Byte, o = .success d → c.command = .store → c.page = 3 →
        c.offset + c.data.length ≤ 32 → c.length = c.data.length → s.ctx[b].marks = some m → m.length = 32 →
        ∃ m' : List Byte, u.ctx[b] = { s.ctx[b] with marks := some m' } ∧ m'.length = 32 ∧
          ∀ i : Nat, i < 32 → m'.getD i 0 =
            if c.offset ≤ i ∧ i < c.offset + c.data.length then m.getD i 0 &&& c.data.getD (i - c.offset) 0
            else m.getD i 0) ∧
      ((∀ d, o ≠ .success d) ∨ c.command ≠ .store ∨ c.page ≠ 3 → u.ctx = s.ctx) ∧
      (∀ x : LinkTransaction, s.link.orphan[b] = false → s.link.outstanding = some x → x.response = none →
        t = { u with link := { s.link with
          state := .responding, outstanding := some { x with waitsOrphan := false, response := some answer } } }) ∧
      (s.link.orphan[b] = true →
        let cleared : LinkPort := { s.link with orphan := upd s.link.orphan b fun _ => false }
        ((∀ x : LinkTransaction, s.link.outstanding = some x → x.waitsOrphan = false) →
          t = { u with link := cleared }) ∧
        ∀ (x : LinkTransaction) (r : LinkRequest), s.link.outstanding = some x → x.waitsOrphan = true →
          x.request = some r → supplyBay r.addr = b → x.response = none →
          let page := r.addr.toNat % 1024 / 32
          let offset := r.addr.toNat % 32
          let passes := r.write = false ∨
            linkWritePasses (u.ctx[b].marks.getD []) page offset r.len r.data = true
          let claim : Claim := { claimant := .link, command := if r.write then .store else .peek, page := page,
                                 offset := offset, length := r.len, data := r.data }
          (passes → screenPasses u.ctx[b] claim = true → u.ctx[b].state ≠ .empty →
            t = arbitrate b { u with
              link := { cleared with outstanding := some { x with waitsOrphan := false } }
              lines := upd s.lines b fun l => { l with waiting := { l.waiting with link := some claim } } }) ∧
          (¬passes → r.addr.toNat < 8192 →
            t = { post .refusedWrite (some b) (0x01#8 :: toLE 3 r.addr.toNat) u with
              link := { cleared with
                state := .responding
                outstanding := some { x with waitsOrphan := false, route := .immediate .refused,
                                             response := some { status := .refused, data := [] } } } }))

/-! ### The notice unit -/

/-- R156 to R159: a posting is held back by its mask bit, coalesces, is counted into QUEUE_FULL, is appended, or becomes
QUEUE_FULL; an IDLE transmitter begins the frame at once. -/
def Obligations.PostingSettledByTheFirstRuleThatApplies : Prop :=
  ∀ (k : NoticeKind) (b : Option Bay) (d : List Byte) (s : State),
    let u := s.notices
    let held := ∃ m : BitVec 32, u.mask = some m ∧ m.getLsbD (k.code - 1) = false ∧
      k ≠ .ready ∧ k ≠ .profileBad ∧ k ≠ .drained ∧ k ≠ .queueFull
    let partner (k : NoticeKind) (b : Option Bay) (n : Notice) : Prop := n.kind = k ∧ n.bay = b ∧ n.sending = false
    let raised (n : Notice) : Notice := { n with repeats := min 255 (n.repeats + 1) }
    let withQueue (q : List Notice) (closed : Bool) : State := { s with notices := { u with queue := q, closed := closed } }
    let fresh (k : NoticeKind) (b : Option Bay) (d : List Byte) : Notice :=
      { kind := k, bay := b, repeats := 1, payload := d, sending := false }
    (held → post k b d s = s) ∧
    (¬held →
      (∀ (pre suf : List Notice) (n : Notice), u.queue = pre ++ n :: suf → partner k b n → (∀ m ∈ pre, ¬partner k b m) →
        post k b d s = withQueue (pre ++ raised n :: suf) u.closed) ∧
      ((∀ n ∈ u.queue, ¬partner k b n) →
        (u.closed = true → ∀ (pre suf : List Notice) (n : Notice), u.queue = pre ++ n :: suf →
          partner .queueFull none n → (∀ m ∈ pre, ¬partner .queueFull none m) →
          post k b d s = withQueue (pre ++ raised n :: suf) true) ∧
        (u.closed = false → u.queue.length < 15 →
          post k b d s = beginFrame (withQueue (u.queue ++ [fresh k b d]) false)) ∧
        (u.closed = false → 15 ≤ u.queue.length →
          post k b d s = beginFrame (withQueue (u.queue ++ [fresh .queueFull none []]) true))))

/-- NOTICE_FRAME_SENT (R161, R162, R75, R159): the notice leaves the queue, and the frame of the next one begins with its
repeat count and payload fixed, a POOL_STARVED taking and clearing its bay's starvation count, a QUEUE_FULL clearing the
closed mark. While a frame is being sent, and with nothing queued, no frame begins, so a posting made then (R158) leaves the
transmitter and the frame as they are. The kind codes of R185 and the codes of R184 are given as numbers. R162: while a frame is being sent the line carries its bytes at the rate fixed when it began, each as a start
bit, eight data bits least significant first and a stop bit, and rests otherwise; the bits have no polarity
(notes/assumptions/39). With the transmitter IDLE the command changes nothing (notes/assumptions/8). -/
def Obligations.NoticeFrameSentBeginsTheNext : Prop :=
  (∀ s : State, s.powered = true →
    (s.notices.transmitter = .idle → exec .noticeFrameSent s = .next s) ∧
    ∀ rate : Nat, s.notices.transmitter = .sending rate →
      (s.notices.queue.tail = [] →
        exec .noticeFrameSent s = .next { s with notices := { s.notices with queue := [], transmitter := .idle } }) ∧
      ∀ (n : Notice) (ns : List Notice), s.notices.queue.tail = n :: ns →
        exec .noticeFrameSent s = .next (beginFrame { s with
          notices := { s.notices with queue := n :: ns, transmitter := .idle } })) ∧
  (∀ (n : Notice) (ns : List Notice) (s : State), s.notices.transmitter = .idle → s.notices.queue = n :: ns →
    let sent (m : Notice) (closed : Bool) : NoticeUnit :=
      { s.notices with queue := { m with sending := true } :: ns, closed := closed,
                       transmitter := .sending s.notices.rate }
    (∀ b : Bay, n.kind = .poolStarved → n.bay = some b →
      beginFrame s = { s with notices := sent { n with payload := toLE 1 s.pool.starved[b] } s.notices.closed,
                              pool := { s.pool with starved := upd s.pool.starved b fun _ => 0 } }) ∧
    (n.kind = .poolStarved → n.bay = none → beginFrame s = { s with notices := sent n s.notices.closed }) ∧
    (n.kind = .queueFull → beginFrame s = { s with notices := sent n false }) ∧
    (n.kind ≠ .poolStarved → n.kind ≠ .queueFull → beginFrame s = { s with notices := sent n s.notices.closed }) ∧
    n.frame = 0xA5#8 :: ((BitVec.ofNat 8 n.kind.code :: bayByte n.bay :: BitVec.ofNat 8 n.repeats ::
      BitVec.ofNat 8 n.payload.length :: n.payload) ++ [crc8 (BitVec.ofNat 8 n.kind.code :: bayByte n.bay ::
        BitVec.ofNat 8 n.repeats :: BitVec.ofNat 8 n.payload.length :: n.payload)])) ∧
  (∀ s : State, s.notices.transmitter ≠ .idle ∨ s.notices.queue = [] → beginFrame s = s) ∧
  ([NoticeKind.ready, .profileBad, .registryTorn, .bayAdmitted, .bayRejected, .bayDeparted, .refillVerdict,
      .allowanceSpent, .levelLow].map NoticeKind.code = [0x01, 0x02, 0x03, 0x04, 0x05, 0x06, 0x07, 0x08, 0x09] ∧
    [NoticeKind.levelZero, .commitDone, .commitError, .countSpent, .tagFault, .markWritten, .marksFull, .markFailed,
      .poolStarved].map NoticeKind.code = [0x0A, 0x0B, 0x0C, 0x0D, 0x0E, 0x0F, 0x10, 0x11, 0x12] ∧
    [NoticeKind.tallySaturated, .strayRead, .swathSplit, .refusedWrite, .linkError, .registryFault, .debtWrittenOff,
      .drained, .queueFull].map NoticeKind.code = [0x13, 0x14, 0x15, 0x16, 0x17, 0x18, 0x19, 0x1A, 0x1B] ∧
    [Verdict.genuine, .refilled, .rolledBack, .tampered, .priorRefill, .overdrawn].map Verdict.code = [0, 1, 2, 3, 4, 5] ∧
    [Action.accept, .limit, .block].map Action.code = [0, 1, 2] ∧
    [RejectReason.blank, .foreign, .wrongInk, .keyUnknown, .counterfeit].map RejectReason.code = [1, 2, 3, 4, 5] ∧
    [Claimant.admission, .commit, .mark, .link].map Claimant.code = [0, 1, 2, 3] ∧
    [FaultReason.denied, .programFailed, .silent, .garbled, .screened, .serialInUse].map FaultReason.code =
      [1, 2, 3, 4, 5, 6] ∧
    [ProfileReason.crc, .version, .planes, .weights, .range].map ProfileReason.code = [1, 2, 3, 4, 5] ∧
    [LinkFault.stall, .busy].map LinkFault.code = [1, 2] ∧
    bayByte none = 0x0F#8 ∧ ∀ b : Bay, bayByte (some b) = BitVec.ofNat 8 b.val) ∧
  (∀ u : NoticeUnit,
    (u.transmitter = .idle → u.onLine = .resting) ∧
    ∀ (rate : Nat) (n : Notice) (ns : List Notice), u.transmitter = .sending rate → u.queue = n :: ns →
      ∃ bits : List LineBit, u.onLine = .carrying rate bits ∧ bits.length = 10 * n.frame.length ∧
        ∀ (i : Nat) (v : Byte), n.frame[i]? = some v → (bits.drop (10 * i)).take 10 = byteBits v) ∧
  ∀ v : Byte, (byteBits v).length = 10 ∧ (byteBits v)[0]? = some .start ∧ (byteBits v)[9]? = some .stop ∧
    ∀ i : Nat, i < 8 → (byteBits v)[i + 1]? = some (.data (v.toNat.testBit i))

/-! ### The tag lines -/

/-- QUIET_WAIT_ELAPSED and TAG_STRAY_BYTE (R8, R9): after 100 µs of quiet a request that waits begins; a byte starts the wait
again. The 100 µs are an event, and the line's quiet flag says that they have passed with no request to begin
(notes/assumptions/7); a request already being sent is left as it is (notes/assumptions/8). -/
def Obligations.QuietWaitStartsTheRequest : Prop :=
  ∀ (b : Bay) (s : State), s.powered = true →
    let u := s.lines[b]
    (u.state = .request → u.sending = false →
      exec (.quietWaitElapsed b) s =
        .next { s with lines := upd s.lines b fun u => { u with sending := true, quiet := false } }) ∧
    (u.state = .request → u.sending = true → exec (.quietWaitElapsed b) s = .next s) ∧
    (u.state ≠ .request →
      exec (.quietWaitElapsed b) s = .next { s with lines := upd s.lines b fun u => { u with quiet := true } }) ∧
    exec (.tagStrayByte b) s = .next { s with lines := upd s.lines b fun u => { u with quiet := false } }

/-- REQUEST_SENT and POLL_TIMER_EXPIRY (R11, R14, R91): the request sent whole starts the reply timer, sets store-sent for a
STORE and moves its commit to POLLING; the poll timer sends the next POLL. Outside the states they arise in the two commands
change nothing (notes/assumptions/8). R8, R182: while the request of the transaction in progress goes out the line carries
its bytes, the command's code, the page, the offset, the length, the data of a STORE or a PROVE and the CRC-8 of all these,
each as the ten bits of NoticeFrameSentBeginsTheNext, which have no polarity (notes/assumptions/39), and nothing otherwise.
The page, the offset, the length and the nonce of a PROVE stand in ProofServiceDeliversAndServesTheNext. -/
def Obligations.RequestSentAndPolled : Prop :=
  (∀ t : Transaction,
    let c := t.claim
    let form (code : Byte) (data : List Byte) : List Byte :=
      let body := code :: BitVec.ofNat 8 c.page :: BitVec.ofNat 8 c.offset :: BitVec.ofNat 8 c.length :: data
      body ++ [crc8 body]
    (t.phase = .first → c.command = .peek → t.request = form 0x11#8 []) ∧
    (t.phase = .first → c.command = .store → t.request = form 0x22#8 c.data) ∧
    (t.phase = .first → c.command = .prove → t.request = form 0x33#8 c.data) ∧
    (t.phase = .polling → t.request = form 0x44#8 [])) ∧
  (∀ u : LineUnit,
    (u.sending = false ∨ u.current = none → u.output = []) ∧
    ∀ t : Transaction, u.sending = true → u.current = some t →
      u.output.length = 10 * t.request.length ∧
      ∀ (i : Nat) (v : Byte), t.request[i]? = some v → (u.output.drop (10 * i)).take 10 = byteBits v) ∧
  ∀ (b : Bay) (s : State), s.powered = true →
    (∀ t : Transaction, s.lines[b].state = .request → s.lines[b].sending = true → s.lines[b].current = some t →
      let isStore := t.phase = .first ∧ t.claim.command = .store
      let v : State := { s with lines := upd s.lines b fun u =>
        { u with state := .awaitReply, sending := false, replyTimer := .running 2000,
                 current := some { t with storeSent := t.storeSent || decide isStore } } }
      (isStore → t.claim.claimant = .commit → s.commits[b].state = .storing →
        exec (.requestSent b) s =
          .next { v with commits := upd s.commits b fun c => { c with state := .polling } }) ∧
      (¬isStore ∨ t.claim.claimant ≠ .commit ∨ s.commits[b].state ≠ .storing → exec (.requestSent b) s = .next v)) ∧
    (s.lines[b].state ≠ .request ∨ s.lines[b].sending = false ∨ s.lines[b].current = none →
      exec (.requestSent b) s = .next s) ∧
    (s.lines[b].state = .pollWait → s.lines[b].pollTimer ≠ .stopped →
      exec (.pollTimerExpiry b) s = .next { s with lines := upd s.lines b fun u =>
        { u with state := .request, sending := u.quiet, quiet := false, pollTimer := .stopped } }) ∧
    (s.lines[b].state ≠ .pollWait ∨ s.lines[b].pollTimer = .stopped → exec (.pollTimerExpiry b) s = .next s)

/-- R9: the class of a reply to the request in flight, by its status, its length, its CRC and its stop bits; bytes after
the CRC are not looked at, and a reply of too few bytes is garbled (notes/assumptions/27). -/
def Obligations.RepliesClassedByTheirBytes : Prop :=
  ∀ (t : Transaction) (st : Byte) (d extra : List Byte),
    let store := t.claim.command = .store
    let prove := t.claim.command = .prove
    let n := if t.phase = .first then (if t.claim.command = .peek then t.claim.length else 0)
      else if prove then 17 else 1
    let good : TagAnswer := { bytes := (st :: d) ++ [crc8 (st :: d)] ++ extra, stopBitsGood := true }
    (st = 0x60#8 → d.length = n → classify t good = .accept d) ∧
    (st = 0x61#8 → d = [] →
      classify t good = if t.phase = .polling ∨ (t.isRepeat = true ∧ (store ∨ prove)) then .wait else .garbled) ∧
    (st = 0x62#8 → d = [] → classify t good = .garbled) ∧
    (st = 0x63#8 → d = [] → classify t good = .denied) ∧
    (st ≠ 0x60#8 → st ≠ 0x61#8 → st ≠ 0x62#8 → st ≠ 0x63#8 → classify t good = .garbled) ∧
    (∀ bytes : List Byte, classify t { bytes := bytes, stopBitsGood := false } = .garbled) ∧
    (∀ x : Byte, x ≠ crc8 (st :: d) → (if st = 0x60#8 then d.length = n else d = []) →
      classify t { bytes := (st :: d) ++ x :: extra, stopBitsGood := true } = .garbled) ∧
    (st = 0x60#8 → d.length ≤ n → classify t { bytes := st :: d, stopBitsGood := true } = .garbled) ∧
    classify t { bytes := [st], stopBitsGood := true } = .garbled

/-- TAG_REPLY (R12 to R15): what each class of reply does to the transaction it answers. `retried` is R13's first failure.
A reply that no request awaits only restarts the quiet wait (R9). What `finish` closes the act with is
notes/assumptions/18. -/
def Obligations.TagReplyMovesTheTransaction : Prop :=
  ∀ (b : Bay) (a : TagAnswer) (s : State), s.powered = true → a.bytes ≠ [] →
    let h : State := { s with lines := upd s.lines b fun u => { u with quiet := false } }
    (s.lines[b].state ≠ .awaitReply → exec (.tagReply b a) s = .next (finish h)) ∧
    ∀ t : Transaction, s.lines[b].state = .awaitReply → s.lines[b].current = some t →
      let goes (f : LineUnit → LineUnit) : Prop :=
        exec (.tagReply b a) s = .next (finish { s with lines := upd s.lines b f })
      let ends (o : LineOutcome) : Prop := exec (.tagReply b a) s = .next (finish (endTransaction b t.claim o h))
      let polls : Prop := goes fun u => { u with
        state := .pollWait, replyTimer := .stopped, pollTimer := .running 1000, quiet := false
        limitTimer := .running (if t.claim.command = .prove then 10000 else 25000)
        current := some { t with phase := .polling, isRepeat := false } }
      let retried : Prop := goes fun u => { u with
        state := .request, replyTimer := .stopped, sending := false, quiet := false
        current := some { t with retries := 1, isRepeat := true } }
      (∀ d : List Byte, classify t a = .accept d →
        (t.phase = .first → t.claim.command = .peek → ends (.success d)) ∧
        (t.phase = .first → t.claim.command ≠ .peek → polls) ∧
        (t.phase = .polling → d.headD 0 = 0x00#8 → ends (.success d.tail)) ∧
        (t.phase = .polling → d.headD 0 ≠ 0x00#8 → ends .programFailed)) ∧
      (classify t a = .wait →
        (t.phase = .first → polls) ∧
        (t.phase = .polling → t.limitPassed = true → ends .programFailed) ∧
        (t.phase = .polling → t.limitPassed = false → goes fun u => { u with
          state := .pollWait, replyTimer := .stopped, pollTimer := .running 1000, quiet := false
          current := some { t with isRepeat := false } })) ∧
      (classify t a = .denied → ends .denied) ∧
      (classify t a = .garbled →
        (t.retries = 0 → t.limitPassed = false → retried) ∧
        (t.retries = 0 → t.limitPassed = true → ends .programFailed) ∧
        (t.retries ≠ 0 → ends .garbled))

/-- REPLY_TIMEOUT and COMPLETION_LIMIT_EXPIRY (R13, R15): the first failure is retried, the second ends the transaction as
SILENT or GARBLED; past the limit the first failure ends it as PROGRAM_FAILED, and so does an expiry in POLL_WAIT. On a
line that awaits no reply, and with the limit timer stopped, nothing changes (notes/assumptions/8) but what `finish`
closes the act with (notes/assumptions/18). That the quiet wait starts anew at the timeout where a reply had begun, whenever
its last byte ended, is the model's choice (notes/assumptions/41). -/
def Obligations.TimeoutsRetryOrEndTheTransaction : Prop :=
  ∀ (b : Bay) (s : State), s.powered = true →
    (∀ begun : Bool,
      let h : State := if begun then { s with lines := upd s.lines b fun u => { u with quiet := false } } else s
      (s.lines[b].state ≠ .awaitReply → exec (.replyTimeout b begun) s = .next (finish s)) ∧
      ∀ t : Transaction, s.lines[b].state = .awaitReply → s.lines[b].current = some t →
        (t.retries = 0 → t.limitPassed = false →
          exec (.replyTimeout b begun) s = .next (finish { s with lines := upd s.lines b fun u =>
            { u with state := .request, replyTimer := .stopped, sending := u.quiet && !begun, quiet := false,
                     current := some { t with retries := 1, isRepeat := true } } })) ∧
        (t.retries = 0 → t.limitPassed = true →
          exec (.replyTimeout b begun) s = .next (finish (endTransaction b t.claim .programFailed h))) ∧
        (t.retries ≠ 0 →
          exec (.replyTimeout b begun) s =
            .next (finish (endTransaction b t.claim (if begun then .garbled else .silent) h)))) ∧
    (∀ t : Transaction, s.lines[b].limitTimer ≠ .stopped → s.lines[b].current = some t →
      (s.lines[b].state = .pollWait →
        exec (.completionLimitExpiry b) s = .next (finish (endTransaction b t.claim .programFailed s))) ∧
      (s.lines[b].state ≠ .pollWait →
        exec (.completionLimitExpiry b) s = .next (finish { s with lines := upd s.lines b fun u =>
          { u with limitTimer := .stopped, current := some { t with limitPassed := true } } }))) ∧
    (s.lines[b].limitTimer = .stopped ∨ s.lines[b].current = none →
      exec (.completionLimitExpiry b) s = .next (finish s))

/-- R16 and R18: the end of a transaction clears it, posts TAG_FAULT for the outcomes that call for it, hands the outcome
over, and lets the arbiter choose; and the arbiter's choice at an IDLE line. -/
def Obligations.TransactionEndsAndTheLineIsArbitrated : Prop :=
  (∀ (b : Bay) (c : Claim) (o : LineOutcome) (s : State),
    let cleared : State := { s with lines := upd s.lines b fun u =>
      { u with current := none, replyTimer := .stopped, pollTimer := .stopped, limitTimer := .stopped,
               sending := false } }
    let reported : State := match o with
      | .denied => post .tagFault (some b) (toLE 1 c.claimant.code ++ [0x01#8]) cleared
      | .programFailed => post .tagFault (some b) (toLE 1 c.claimant.code ++ [0x02#8]) cleared
      | .silent => post .tagFault (some b) (toLE 1 c.claimant.code ++ [0x03#8]) cleared
      | .garbled => post .tagFault (some b) (toLE 1 c.claimant.code ++ [0x04#8]) cleared
      | .success _ | .abandoned _ | .withdrawn => cleared
    let handed : State := match c.claimant with
      | .admission => admissionOutcome b c o reported
      | .commit => commitOutcome b o reported
      | .mark => markOutcome b c o reported
      | .link => linkOutcome b c o reported
    endTransaction b c o s =
      arbitrate b { handed with lines := upd handed.lines b fun u => { u with state := .idle } }) ∧
  ∀ (b : Bay) (s : State),
    let u := s.lines[b]
    let w := u.waiting
    let served (c : Claim) (w' : Waiting) (flag : Bool) : State := { s with lines := upd s.lines b fun u =>
      { u with state := .request, waiting := w', lastLink := flag, sending := u.quiet, quiet := false,
               current := some { claim := c, phase := .first, isRepeat := false, retries := 0, storeSent := false,
                                 limitPassed := false } } }
    let runs := u.state = .idle ∧ s.part ≠ .drain ∧ s.part ≠ .drained
    (¬runs ∨ w = ⟨none, none, none, none⟩ → arbitrate b s = s) ∧
    (runs →
      (∀ c : Claim, w.admission = some c → arbitrate b s = served c { w with admission := none } false) ∧
      (∀ c : Claim, w.admission = none → w.link = some c → u.lastLink = false ∨ (w.mark = none ∧ w.commit = none) →
        arbitrate b s = served c { w with link := none } true) ∧
      (∀ c : Claim, w.admission = none → w.link = none ∨ u.lastLink = true → w.mark = some c →
        arbitrate b s = served c { w with mark := none } false) ∧
      (∀ c : Claim, w.admission = none → w.link = none ∨ u.lastLink = true → w.mark = none → w.commit = some c →
        arbitrate b s = served c { w with commit := none } false))

/-- R7 and R17: the shapes that pass the write screen, and what becomes of an arriving claim. -/
def Obligations.WriteScreenPassesOnlyItsShapes : Prop :=
  (∀ (x : BayContext) (c : Claim),
    let within := c.page < 32 ∧ 1 ≤ c.length ∧ c.offset + c.length ≤ 32
    (screenPasses x c = true ↔
      (c.command = .peek ∧ within) ∨
      (c.command = .prove ∧ c.claimant = .admission ∧ within) ∨
      (c.command = .store ∧ c.claimant = .commit ∧ c.page = 2 ∧ c.offset = 0 ∧ c.length = 32 ∧
        ∃ img, x.level = some img ∧ pageUse c.data = pageUse img + 1 ∧ pageLevel c.data ≤ pageLevel img) ∨
      (c.command = .store ∧ c.claimant = .mark ∧ c.page = 3 ∧ c.length = 4 ∧
        ∃ img k, x.marks = some img ∧ k ≤ 6 ∧ c.offset = 4 * k ∧ markKind img k = 0xFF ∧ field c.data 0 1 ≠ 0xFF) ∨
      (c.command = .store ∧ c.claimant = .link ∧ c.page = 3 ∧ 28 ≤ c.offset ∧ within ∧
        ∃ img, x.marks = some img ∧ onlyClears c.data (slice img c.offset c.length) = true) ∨
      (c.command = .store ∧ c.claimant = .link ∧ 4 ≤ c.page ∧ within ∧
        ∃ img, x.marks = some img ∧ (field img 28 4).testBit c.page = true))) ∧
  ∀ (b : Bay) (c : Claim) (s : State),
    (s.ctx[b].state = .empty → claimArrives b c s = (s, some (.abandoned false))) ∧
    (s.ctx[b].state ≠ .empty → screenPasses s.ctx[b] c = false →
      claimArrives b c s = (post .tagFault (some b) (toLE 1 c.claimant.code ++ [0x05#8]) s, some .denied)) ∧
    (s.ctx[b].state ≠ .empty → screenPasses s.ctx[b] c = true →
      claimArrives b c s = (arbitrate b { s with lines := upd s.lines b fun u => { u with waiting := match c.claimant with
        | .admission => { u.waiting with admission := some c }
        | .commit => { u.waiting with commit := some c }
        | .mark => { u.waiting with mark := some c }
        | .link => { u.waiting with link := some c } } }, none))

/-- PROOF_SERVICE_DONE (R38 to R40): the result goes to its requester unless it was cancelled, and the request at the head
of the FIFO is served; a nonce starts with the draw count, and its arrival makes the PROVE claim and the request for the
expected response (R30). The draw count stands low byte first in the nonce (notes/assumptions/2). With no request in
service nothing is delivered (notes/assumptions/8), and what `finish` closes the act with is notes/assumptions/18. -/
def Obligations.ProofServiceDeliversAndServesTheNext : Prop :=
  ∀ s : State, s.powered = true →
    (s.proof.service = none → exec .proofServiceDone s = .next (finish s)) ∧
    ∀ r : ProofRequest, s.proof.service = some r →
      let drawn := if r.inputs = .nonce then 1 else 0
      let next : ProofEngine := { service := s.proof.fifo.head?, fifo := s.proof.fifo.tail,
                                  draws := s.proof.draws + BitVec.ofNat 32 drawn }
      (r.cancelled = true →
        exec .proofServiceDone s = .next (finish { s with proof := next, freeCount := s.freeCount + drawn })) ∧
      (r.cancelled = false → r.requester = .admission →
        s.ctx[r.bay].awaitProof = false ∨
          (s.ctx[r.bay].state ≠ .proving ∧ s.ctx[r.bay].state ≠ .checking) →
        exec .proofServiceDone s = .next (finish { s with proof := next, freeCount := s.freeCount + drawn })) ∧
      (r.cancelled = false → r.requester = .admission → r.inputs = .nonce → s.ctx[r.bay].awaitProof = true →
        s.ctx[r.bay].state = .proving →
        ∃ x : List Byte, x.length = 16 ∧ x.take 4 = toLE 4 s.proof.draws.toNat ∧
          let id := s.ctx[r.bay].identity.getD []
          let c : Claim := { claimant := .admission, command := .prove, page := 0, offset := 0, length := 16, data := x }
          let req : ProofRequest := { bay := r.bay, requester := .admission, cancelled := false,
                                      inputs := .proof (slotOf id) (pageSerial id) x }
          let all := s.proof.fifo ++ [req]
          exec .proofServiceDone s = .next (finish (arbitrate r.bay { s with
            ctx := upd s.ctx r.bay fun y => { y with nonce := some x, awaitLine := true, awaitProof := true }
            lines := upd s.lines r.bay fun u => { u with waiting := { u.waiting with admission := some c } }
            proof := { service := all.head?, fifo := all.tail, draws := s.proof.draws + 1 }
            freeCount := s.freeCount + 1 }))) ∧
      (r.cancelled = false → r.inputs ≠ .nonce →
        let result := match r.inputs with
          | .nonce => []
          | .proof slot serial nonce =>
            toLE 16 (Config.proofFunction s.profile.keys[slot] serial (BitVec.ofNat 128 (leNat nonce))).toNat
          | .check slot serial level use stamp =>
            toLE 8 (Config.checkFunction s.profile.keys[slot] serial (BitVec.ofNat 24 level) (BitVec.ofNat 16 use)
              stamp).toNat
        let t := match r.requester with
          | .admission => admissionResult r.bay r.inputs result s
          | .commit => checkCodeArrives r.bay result s
        exec .proofServiceDone s = .next (finish { t with
          proof := { t.proof with service := t.proof.fifo.head?, fifo := t.proof.fifo.tail } }))

/-! ### Admission -/

/-- R28 to R32: what each outcome of an admission claim and each proof-engine result does to the bay that waits for it: the
page it fills, the next claim, the identification checks in their order, the two results of a proof attempt and how they
settle it, the check request and its comparison, and FAULTED on a page that does not answer. A PROVE that ends
PROGRAM_FAILED or DENIED is held like a response (notes/assumptions/23), and a bay that leaves admission in REJECTED or
FAULTED holds and awaits nothing (notes/assumptions/24). -/
def Obligations.IdentityAndProofJudged : Prop :=
  (∀ (p : Profile) (b : Bay) (id : List Byte),
    let blank := ∀ x ∈ id, x = 0xFF#8
    let wrongFormat := field id 15 1 ≠ 1
    let unknownMaker := field id 8 2 ∉ p.makers
    let wrongInk := BitVec.ofNat 8 (field id 10 1) ≠ p.bays[b].ink
    let noKey := 3 < field id 11 1 ∨ p.keys[slotOf id] = BitVec.allOnes 128
    let noCapacity := field id 12 3 = 0
    (blank → identificationFault p b id = some .blank) ∧
    (¬blank → wrongFormat ∨ unknownMaker → identificationFault p b id = some .foreign) ∧
    (¬blank → ¬wrongFormat → ¬unknownMaker → wrongInk → identificationFault p b id = some .wrongInk) ∧
    (¬blank → ¬wrongFormat → ¬unknownMaker → ¬wrongInk → noKey → identificationFault p b id = some .keyUnknown) ∧
    (¬blank → ¬wrongFormat → ¬unknownMaker → ¬wrongInk → ¬noKey →
      identificationFault p b id = if noCapacity then some .foreign else none)) ∧
  ∀ (b : Bay) (s : State),
    let at_ (f : BayContext → BayContext) : State := { s with ctx := upd s.ctx b f }
    let dropped (x : BayContext) : BayContext :=
      { x with nonce := none, awaitLine := false, awaitProof := false, heldPage := none, heldProve := none,
               heldExpected := none, heldCheck := none }
    let peeks (page : Nat) (t : State) : State :=
      let c : Claim := { claimant := .admission, command := .peek, page := page, offset := 0, length := 32, data := [] }
      arbitrate b { t with lines := upd t.lines b fun u => { u with waiting := { u.waiting with admission := some c } } }
    let asks (i : ProofInputs) (t : State) : State :=
      { t with proof := t.proof.enqueue { bay := b, requester := .admission, inputs := i, cancelled := false } }
    let rejects (r : RejectReason) (t : State) : State := post .bayRejected (some b) (toLE 1 r.code) t
    let outcome (page : Nat) (o : LineOutcome) (t : State) : Prop :=
      ∀ c : Claim, c.page = page → admissionOutcome b c o s = t
    (s.ctx[b].state = .identifying →
      (∀ d : List Byte, outcome 0 (.success d) (peeks 1 (at_ fun x => { x with heldPage := some d }))) ∧
      (∀ p0 p1 : List Byte, s.ctx[b].heldPage = some p0 →
        let id := p0 ++ p1
        (∀ r : RejectReason, identificationFault s.profile b id = some r →
          outcome 1 (.success p1)
            (rejects r (at_ fun x => { dropped x with identity := some id, state := .rejected }))) ∧
        (identificationFault s.profile b id = none →
          outcome 1 (.success p1) (asks .nonce (at_ fun x =>
            { dropped x with identity := some id, attempts := 0, state := .proving, awaitProof := true }))))) ∧
    (s.ctx[b].state = .checking →
      (∀ d : List Byte,
        outcome 2 (.success d)
          (let id := s.ctx[b].identity.getD []
           asks (.check (slotOf id) (pageSerial id) (pageLevel d) (pageUse d) (pageStamp d))
             (peeks 3 (at_ fun x => { x with level := some d, awaitLine := true, awaitProof := true }))) ∧
        outcome 3 (.success d)
          (checkingComplete b (at_ fun x => { x with marks := some d, awaitLine := false }))) ∧
      ∀ (slot : Fin 4) (serial : BitVec 64) (level use : Nat) (stamp : BitVec 32) (code : List Byte),
        s.ctx[b].awaitProof = true →
        admissionResult b (.check slot serial level use stamp) code s =
          checkingComplete b (at_ fun x =>
            { x with heldCheck := some (decide (code = slice (s.ctx[b].level.getD []) 9 8)), awaitProof := false })) ∧
    (∀ (page : Nat) (o : LineOutcome), o = .silent ∨ o = .garbled ∨ o = .denied →
      s.ctx[b].state = .identifying ∨ s.ctx[b].state = .checking ∨ (s.ctx[b].state = .proving ∧ o ≠ .denied) →
      outcome page o (at_ fun x => { dropped x with state := .faulted })) ∧
    (s.ctx[b].state = .proving →
      (∀ d : List Byte, outcome 0 (.success d)
        (settleProof b (at_ fun x => { x with heldProve := some (.response d), awaitLine := false }))) ∧
      (∀ o : LineOutcome, o = .programFailed ∨ o = .denied → outcome 0 o
        (settleProof b (at_ fun x => { x with heldProve := some .failed, awaitLine := false }))) ∧
      ∀ (slot : Fin 4) (serial : BitVec 64) (nonce x : List Byte), s.ctx[b].awaitProof = true →
        admissionResult b (.proof slot serial nonce) x s =
          settleProof b (at_ fun y => { y with heldExpected := some x, awaitProof := false })) ∧
    (s.ctx[b].heldProve = none ∨ s.ctx[b].heldExpected = none → settleProof b s = s) ∧
    (s.ctx[b].marks = none ∨ s.ctx[b].heldCheck = none → checkingComplete b s = s) ∧
    (∀ (i : ProofInputs) (x : List Byte), s.ctx[b].awaitProof = false → admissionResult b i x s = s) ∧
    ∀ (r : ProveResult) (x : List Byte), s.ctx[b].heldProve = some r → s.ctx[b].heldExpected = some x →
      let t := settleProof b s
      (r = .response x → t = peeks 2 (at_ fun y => { dropped y with state := .checking, awaitLine := true })) ∧
      (r ≠ .response x → s.ctx[b].attempts = 0 →
        t = asks .nonce (at_ fun y => { dropped y with attempts := 1, state := .proving, awaitProof := true })) ∧
      (r ≠ .response x → s.ctx[b].attempts = 1 →
        t = rejects .counterfeit (at_ fun y => { dropped y with attempts := 2, state := .rejected }))

/-- R107, R108, R110: a lookup finds the entry of the serial, is held while that entry is in a bay, fills the lowest-numbered
entry that is not valid, or evicts the least last seen of the entries that may go, whose volumes are written off. -/
def Obligations.LookupFindsHoldsCreatesOrEvicts : Prop :=
  ∀ (b : Bay) (k : LookupKey) (s : State),
    let r := s.registry
    let t := lookup b k s
    let holds (e : EntryIx) : Prop := r.entries[e].saved.valid = true ∧ r.entries[e].saved.serial = k.serial
    let fresh (e : EntryIx) : Prop :=
      t.2 = .created e ∧
      t.1.registry.entries[e] = { r.entries[e] with
        saved := { valid := true, serial := k.serial, capacity := k.capacity, lastLevel := k.level, lastUse := k.use,
                   residue := 0, debt := 0, overdraw := 0, worst := .genuine, held := .accept, allowance := 0,
                   doubt := none, lastSeen := r.entries[e].saved.lastSeen }
        dirty := true
        commits := 0 } ∧
      ∀ f : EntryIx, f ≠ e → t.1.registry.entries[f] = r.entries[f]
    (∀ e : EntryIx, holds e → (∀ f : EntryIx, holds f → f = e) →
      (r.entries[e].inBay = none →
        t = ({ s with registry := { r with entries := upd r.entries e fun n =>
          { n with saved := { n.saved with capacity := k.capacity } } } }, .found e)) ∧
      (r.entries[e].inBay ≠ none → t = (s, .held))) ∧
    ((∀ e : EntryIx, ¬holds e) →
      (∀ e : EntryIx, r.entries[e].saved.valid = false → (∀ f : EntryIx, f < e → r.entries[f].saved.valid = true) →
        fresh e ∧ t.1.registry.header = r.header ∧ t.1.notices = s.notices) ∧
      ((∀ e : EntryIx, r.entries[e].saved.valid = true) →
        let mayGo (e : EntryIx) : Prop := r.entries[e].inBay = none ∧
          (∀ (v : Saved) (c : BitVec 32), r.write ≠ some (.entry e v c)) ∧ ∀ c : Bay, s.tracker.owner[c] ≠ some e
        ∀ e : EntryIx, mayGo e →
          (∀ f : EntryIx, mayGo f → r.entries[e].saved.lastSeen < r.entries[f].saved.lastSeen ∨
            (r.entries[e].saved.lastSeen = r.entries[f].saved.lastSeen ∧ e ≤ f)) →
          let x := r.entries[e].saved
          let v := x.debt + x.residue + x.doubtTotal
          let total := min (2 ^ 64 - 1) (r.header.writtenOff + v)
          fresh e ∧
          (v = 0 → t.1.registry.header = r.header ∧ t.1.notices = s.notices) ∧
          (0 < v → t.1.registry.header = { r.header with writtenOff := total, dirty := true } ∧
            t.1.notices = (post .debtWrittenOff (some b)
              (toLE 6 (min v (2 ^ 48 - 1)) ++ toLE 6 (min total (2 ^ 48 - 1))) s).notices)))

/-- R33, R107, R109, R111: the completion of checking binds the entry the lookup answers with to the bay, resolves its doubt
record, combines the checks' verdict with its history and then OVERDRAWN where it arises (R124), gives the bay its action
and state, moves the debt into carry (R80), advances the sequence, posts BAY_ADMITTED with the reported verdict, asks for
the stamps of R129, and judges the commit (last, notes/assumptions/21); a serial that is in another bay holds the bay in
CHECKING. The carry is taken below its overflow (R70). -/
def Obligations.CheckingCompletesAsOneAct : Prop :=
  ∀ (b : Bay) (id level marks : List Byte) (good : Bool) (s : State),
    s.ctx[b].identity = some id → s.ctx[b].level = some level → s.ctx[b].marks = some marks →
    s.ctx[b].heldCheck = some good → s.ctx[b].state = .checking →
    let k : LookupKey := { serial := pageSerial id, capacity := pageCapacity id, level := pageLevel level,
                           use := pageUse level }
    let t := checkingComplete b s
    (∀ (e : EntryIx) (found : Bool), (lookup b k s).2 = (if found then .found e else .created e) →
      let p := s.profile.policy
      let s1 := (lookup b k s).1
      let r := resolveDoubt b e k.level k.use { s1 with ctx := upd s1.ctx b fun c => { c with owner := some e } }
      let checks := refillChecks good found marks k.level k.use k.capacity r.1.registry.entries[e].saved
      let judged := combineEntry p checks r.1.registry.entries[e]
      let x := if r.2 then combineEntry p .overdrawn judged else judged
      let sequence := min (2 ^ 32 - 1) (s.registry.header.sequence + 1)
      let reported := if r.2 = true ∧ p.rank checks < p.rank .overdrawn then .overdrawn else checks
      let other := if reported = checks then .overdrawn else checks
      let marked (v : Verdict) : Bool := match v with
        | .refilled => p.refilled.mark
        | .rolledBack => p.rolledBack.mark
        | .tampered => p.tampered.mark
        | .overdrawn => p.overdrawn.mark
        | .genuine | .priorRefill => false
      let first := if marked reported then [reported] else []
      let second := if r.2 = true ∧ marked other = true then [other] else []
      let worst := x.saved.worst
      let third := if marked worst = true ∧ worst ∉ first ++ second then [worst] else []
      let bound : State := { r.1 with
        ctx := upd s.ctx b fun c => { c with
          owner := some e, action := some x.saved.held
          state := match x.saved.held with | .accept => .admitted | .limit => .limited | .block => .blocked
          nonce := none, awaitLine := false, awaitProof := false, heldPage := none, heldProve := none
          heldExpected := none, heldCheck := none }
        pool := { r.1.pool with carry := upd r.1.pool.carry b fun v => v + x.saved.debt }
        registry := { r.1.registry with
          entries := upd r.1.registry.entries e fun _ => { x with
            inBay := some b, dirty := true, saved := { x.saved with debt := 0, lastSeen := sequence } }
          header := { r.1.registry.header with sequence := sequence, dirty := true } } }
      x.saved.valid = true ∧ x.saved.serial = pageSerial id ∧ x.saved.capacity = pageCapacity id ∧
        x.saved.doubt = none ∧
        (s.pool.carry[b] + x.saved.debt ≤ 2 ^ 56 - 1 →
          t = judge b ((first ++ second ++ third).foldl (fun u v => requestStamp b v u)
            (post .bayAdmitted (some b) (toLE 1 reported.code ++ toLE 1 x.saved.held.code ++ toLE 3 k.level) bound)))) ∧
    (∀ e : EntryIx, s.registry.find (pageSerial id) = some e → s.registry.entries[e].inBay ≠ none →
      t = post .tagFault (some b) [0x00#8, 0x06#8]
        { s with registry := { s.registry with heldLookups := s.registry.heldLookups ++ [b] } })

/-- R121 to R123, R125 and R127: the action, the allowance, the mark and the rank the policy gives each verdict, a doubt
record resolved by what the level image shows, OVERDRAWN where a landed reading's overdraw passes the margin (R124), the
refill checks in their order, and the table that combines a verdict with the entry's history, which weakens nothing. -/
def Obligations.VerdictFollowsTheChecksAndNeverWeakens : Prop :=
  (∀ p : Policy,
    let row (v : Verdict) (r : PolicyRow) : Prop :=
      (r.action = .limit → r.allowanceLU = 0 → p.action v = .block) ∧
      (r.action ≠ .limit ∨ 0 < r.allowanceLU → p.action v = r.action) ∧ p.allowance v = r.allowanceLU * 10 ^ 9 ∧
      (p.marks v = true ↔ r.mark = true ∧ v ≠ .priorRefill)
    row .refilled p.refilled ∧ row .rolledBack p.rolledBack ∧ row .tampered p.tampered ∧
      row .priorRefill p.priorRefill ∧ row .overdrawn p.overdrawn ∧
      p.action .genuine = .accept ∧ p.allowance .genuine = 0 ∧ p.marks .genuine = false ∧
      (∀ v : Verdict, p.action v = .limit → 0 < p.allowance v) ∧
      Action.accept.strength < Action.limit.strength ∧ Action.limit.strength < Action.block.strength ∧
      ∀ v : Verdict, v ≠ .genuine → p.rank .genuine < p.rank v ∧
        ∀ w : Verdict, w ≠ .genuine →
          (p.rank v < p.rank w ↔ (p.action v).strength < (p.action w).strength) ∧
          (p.rank v = p.rank w ↔ p.action v = p.action w)) ∧
  (∀ (good found : Bool) (marks : List Byte) (level use capacity : Nat) (v : Saved),
    let refillKind := ∃ k : Nat, k ≤ 6 ∧ 1 ≤ field marks (4 * k) 1 ∧ field marks (4 * k) 1 ≤ 5
    let r := refillChecks good found marks level use capacity v
    (good = false → r = .tampered) ∧
    (good = true → refillKind → r = .priorRefill) ∧
    (good = true → ¬refillKind →
      (found = true → use < v.lastUse → r = .rolledBack) ∧
      (found = true → v.lastUse ≤ use → v.lastLevel < level → r = .refilled) ∧
      (found = true → use = v.lastUse → level < v.lastLevel → r = .tampered) ∧
      (found = true → v.lastUse ≤ use → level ≤ v.lastLevel → use ≠ v.lastUse ∨ level = v.lastLevel → r = .genuine) ∧
      (found = false → r = if capacity < level then .tampered else .genuine))) ∧
  (∀ (p : Policy) (v : Verdict) (n : Entry),
    let a := p.action v
    let w := p.allowance v
    let x := n.saved
    let m := combineEntry p v n
    let y := m.saved
    (a = .block ∨ x.held = .block → y.held = .block ∧ y.allowance = x.allowance) ∧
    (a = .accept → y.held = x.held ∧ y.allowance = x.allowance) ∧
    (a = .limit → x.held = .accept → y.held = .limit ∧ y.allowance = w) ∧
    (a = .limit → x.held = .limit → y.held = .limit ∧ y.allowance = min x.allowance w) ∧
    x.held.strength ≤ y.held.strength ∧ (x.held = .limit → y.allowance ≤ x.allowance) ∧
    y.worst = (if p.rank x.worst < p.rank v then v else x.worst) ∧
    m.dirty = (n.dirty || decide (y.held ≠ x.held ∨ y.allowance ≠ x.allowance ∨ y.worst ≠ x.worst))) ∧
  (∀ (b : Bay) (e : EntryIx) (level use : Nat) (s : State), s.registry.entries[e].saved.doubt = none →
    resolveDoubt b e level use s = (s, false)) ∧
  ∀ (b : Bay) (e : EntryIx) (level use : Nat) (d : DoubtRecord) (s : State),
    let v := s.registry.entries[e].saved
    let t := (resolveDoubt b e level use s).1
    v.doubt = some d → v.debt + d.total ≤ 2 ^ 56 - 1 →
    let notLanded := (level = d.priorLevel ∧ use = d.priorUse) ∧ ¬(level = d.expectedLevel ∧ use = d.expectedUse)
    ((resolveDoubt b e level use s).2 = true ↔ ¬notLanded ∧ 0 < d.overdraw ∧
      v.capacity * s.profile.margin < min 16777215 (v.overdraw + d.overdraw) * 100) ∧
    t = { s with registry := { s.registry with entries := upd s.registry.entries e fun n =>
      { n with dirty := true, saved :=
        if notLanded then { n.saved with debt := v.debt + d.total, doubt := none }
        else { n.saved with lastLevel := d.expectedLevel, lastUse := d.expectedUse, residue := d.total % 1000000000,
                            overdraw := min 16777215 (v.overdraw + d.overdraw), doubt := none } } } }

/-! ### Committing -/

/-- R84: when a commit is due on a bay whose owner is `e`. -/
def Obligations.CommitDueExactlyWhen : Prop :=
  ∀ (b : Bay) (e : EntryIx) (s : State), s.ctx[b].owner = some e →
    let waits := s.pool.pend[b].total + s.pool.carry[b]
    (commitDue s b = some e ↔
      (s.ctx[b].state = .admitted ∨ s.ctx[b].state = .limited ∨ s.ctx[b].state = .blocked) ∧
      s.ctx[b].sticky = ⟨false, false⟩ ∧ s.commits[b].state = .idle ∧ s.part = .ready ∧
      (s.profile.bays[b].commitStep * 10 ^ 9 ≤ waits + s.registry.entries[e].saved.residue ∨
        (s.tracker.state ≠ .openSwath ∧ s.commits[b].flush = .elapsed ∧ 0 < waits))) ∧
    (commitDue s b ≠ some e → commitDue s b = none)

/-- R86 to R89: a commit start forms the batch; q of 0 is absorbed, a spent use count is refused, and any other is planned
and its check code asked for. R87 and R88 name the batch carry and the batch residue; that an absorbed and a refused
commit clear every other field of the batch too is notes/assumptions/37, and that none of the three marks the entry dirty,
its write in flight or not, is notes/assumptions/40. -/
def Obligations.CommitStartAbsorbsRefusesOrPlans : Prop :=
  ∀ (b : Bay) (e : EntryIx) (s : State), s.pool.Partitioned → s.pool.batch[b] = Queue.empty →
    s.commits[b].state = .idle →
    let x := s.registry.entries[e].saved
    let total := s.pool.pend[b].total + s.pool.carry[b] + x.residue
    let q := total / 10 ^ 9
    let level := pageLevel (s.ctx[b].level.getD [])
    let use := pageUse (s.ctx[b].level.getD [])
    let t := commitStart b e s
    let y := t.registry.entries[e]
    let idle (c : CommitContext) : CommitContext := { CommitContext.reset with flush := c.flush, lowPosted := c.lowPosted }
    (q = 0 →
      y = { s.registry.entries[e] with saved := { x with residue := total } } ∧
      t.pool.pend[b] = Queue.empty ∧ t.pool.batch[b] = Queue.empty ∧ t.pool.carry[b] = 0 ∧
      t.commits = upd s.commits b idle ∧ t.ctx = s.ctx ∧ t.lines = s.lines ∧ t.proof = s.proof ∧
      t.notices = s.notices) ∧
    (0 < q → use = 65535 → s.pool.carry[b] ≤ 2 ^ 56 - 1 →
      y = s.registry.entries[e] ∧ t.pool.pend[b] = s.pool.pend[b] ∧ t.pool.batch[b] = Queue.empty ∧
      t.pool.carry = s.pool.carry ∧ t.commits = upd s.commits b idle ∧ t.lines = s.lines ∧ t.proof = s.proof ∧
      (s.ctx[b].state.settled = true →
        t.ctx = upd s.ctx b fun c => { c with state := .faulted, sticky := { c.sticky with countSpent := true } }) ∧
      t.notices = (post .countSpent (some b) [] s).notices) ∧
    (0 < q → use < 65535 →
      t.pool.pend[b] = Queue.empty ∧ t.pool.batch[b] = s.pool.pend[b] ∧ t.pool.carry[b] = 0 ∧
      y = { s.registry.entries[e] with saved := { x with residue := 0 } } ∧
      t.commits = upd s.commits b (fun c =>
        { state := .provingCode, batchCarry := s.pool.carry[b], batchResidue := x.residue, total := total, charged := q,
          newResidue := total % 10 ^ 9, priorLevel := level, priorUse := use, newLevel := level - q, newUse := use + 1,
          excess := q - level, pageData := c.pageData, flush := c.flush, lowPosted := c.lowPosted }) ∧
      (let id := s.ctx[b].identity.getD []
       let code : ProofInputs := .check (slotOf id) (pageSerial id) (level - q) (use + 1) s.profile.printerId
       t.proof = s.proof.enqueue { bay := b, requester := .commit, inputs := code, cancelled := false }) ∧
      t.ctx = s.ctx ∧ t.lines = s.lines ∧ t.notices = s.notices)

/-- R90, R92 to R97, R101: the level page that the check code completes, its claim, which settlement each outcome of its
STORE takes, and what the success, the failure and the withdrawal leave: a success charges the tag, posts the level
notices, makes the overdraw test (both as LevelNoticesAndEscalation states them), posts COMMIT_DONE, settles and judges
the next commit, in this order, and a failure or a withdrawal in DRAIN folds the bay again. The page's fields read back
as R183 places them. That a settlement clears every field of the batch is notes/assumptions/37, and that a check code in
STORING or POLLING changes nothing, as R90 says for IDLE, is notes/assumptions/8; that a failure and a withdrawal bring
the residue back, and a success below the save interval charges, without marking the entry, its write in flight or not,
is notes/assumptions/40. A claim the screen refuses settles as DENIED. -/
def Obligations.CommitWritesItsPageAndSettles : Prop :=
  (∀ (level use : Nat) (stamp : BitVec 32) (code : List Byte), level < 2 ^ 24 → use < 2 ^ 16 → code.length = 8 →
    let p := levelPage level use stamp code
    p.length = 32 ∧ pageLevel p = level ∧ pageUse p = use ∧ pageStamp p = stamp ∧ pageCheck p = code ∧
      p.drop 17 = List.replicate 15 0x00#8) ∧
  ∀ (b : Bay) (e : EntryIx) (s : State), s.ctx[b].owner = some e →
    let c := s.commits[b]
    let x := s.registry.entries[e]
    let idle (u : State) : Prop :=
      u.commits[b] = { CommitContext.reset with flush := c.flush, lowPosted := u.commits[b].lowPosted }
    let refolds (t u : State) : Prop := t = if s.part = .drain then fold b u else u
    let returned (u : State) : Prop :=
      idle u ∧ u.commits[b].lowPosted = c.lowPosted ∧ u.pool.batch[b] = Queue.empty ∧
        u.registry.entries[e] = { x with saved := { x.saved with residue := x.saved.residue + c.batchResidue } } ∧
        (s.pool.Partitioned →
          u.pool.pend[b].total = s.pool.pend[b].total + s.pool.batch[b].total ∧
          u.pool.pend[b].count = s.pool.pend[b].count + s.pool.batch[b].count) ∧
        (s.pool.carry[b] + c.batchCarry ≤ 2 ^ 56 - 1 → u.pool.carry[b] = s.pool.carry[b] + c.batchCarry)
    ((∀ d : List Byte, commitOutcome b (.success d) s = commitSuccess b e s) ∧
      commitOutcome b .denied s = commitFailure b e .denied s ∧
      commitOutcome b .programFailed s = commitFailure b e .programFailed s ∧
      commitOutcome b .silent s = commitFailure b e .silent s ∧
      commitOutcome b .garbled s = commitFailure b e .garbled s ∧
      commitOutcome b .withdrawn s = commitWithdrawn b e s ∧
      ∀ sent : Bool, commitOutcome b (.abandoned sent) s = s) ∧
    (∀ code : List Byte,
      (c.state ≠ .provingCode → checkCodeArrives b code s = s) ∧
      (c.state = .provingCode → s.part ≠ .ready → checkCodeArrives b code s = commitWithdrawn b e s) ∧
      (c.state = .provingCode → s.part = .ready →
        let page := levelPage c.newLevel c.newUse s.profile.printerId code
        let claim : Claim := { claimant := .commit, command := .store, page := 2, offset := 0, length := 32, data := page }
        s.ctx[b].state ≠ .empty → screenPasses s.ctx[b] claim = true →
        checkCodeArrives b code s = arbitrate b { s with
          commits := upd s.commits b fun c => { c with pageData := some page, state := .storing }
          lines := upd s.lines b fun u => { u with waiting := { u.waiting with commit := some claim } } }) ∧
      (c.state = .provingCode → s.part = .ready →
        let page := levelPage c.newLevel c.newUse s.profile.printerId code
        let claim : Claim := { claimant := .commit, command := .store, page := 2, offset := 0, length := 32, data := page }
        s.ctx[b].state ≠ .empty → screenPasses s.ctx[b] claim = false →
        checkCodeArrives b code s = commitFailure b e .denied (post .tagFault (some b)
          (toLE 1 claim.claimant.code ++ [0x05#8]) { s with
            commits := upd s.commits b fun c => { c with pageData := some page, state := .storing } }))) ∧
    (let capacity := pageCapacity (s.ctx[b].identity.getD [])
     let low := capacity * s.profile.bays[b].lowMark / 100
     let full := s.profile.saveInterval ≤ x.commits + 1
     let swaths : Nat × Nat := match s.pool.batch[b].head, s.pool.batch[b].tail with
       | some h, some t => (s.pool.records[h].swath.toNat, s.pool.records[t].swath.toNat)
       | _, _ => (0, 0)
     let charged : State := { s with
       ctx := upd s.ctx b fun y => { y with level := c.pageData }
       registry := { s.registry with entries := upd s.registry.entries e fun n => { n with
         saved := { n.saved with lastLevel := c.newLevel, lastUse := c.newUse, residue := c.newResidue,
                                 overdraw := min 16777215 (n.saved.overdraw + c.excess) }
         commits := if full then 0 else n.commits + 1
         dirty := n.dirty || decide full || s.part == .drain } }
       pool := s.pool.batchToFree b
       commits := upd s.commits b fun c => { c with batchCarry := 0, batchResidue := 0 } }
     let reported := post .commitDone (some b)
       (toLE 3 c.newLevel ++ toLE 2 c.newUse ++ toLE 1 s.pool.batch[b].count ++ toLE 2 swaths.1 ++ toLE 2 swaths.2)
       (overdrawTest b e (levelNotices b charged))
     let u : State := { reported with commits := upd reported.commits b fun c =>
       { CommitContext.reset with flush := c.flush, lowPosted := c.lowPosted } }
     commitSuccess b e s = judge b u ∧
      (charged.pool.batch[b] = Queue.empty ∧ (∀ d : Bay, d ≠ b → charged.pool.batch[d] = s.pool.batch[d]) ∧
        charged.pool.pend = s.pool.pend ∧ charged.pool.carry = s.pool.carry ∧ charged.pool.starved = s.pool.starved ∧
        (s.pool.Partitioned → charged.pool.free.count = s.pool.free.count + s.pool.batch[b].count)) ∧
      (c.excess = 0 ∨ min 16777215 (x.saved.overdraw + c.excess) * 100 ≤ capacity * s.profile.margin →
        u.registry = charged.registry ∧ u.ctx = charged.ctx ∧ u.lines = s.lines ∧ u.marks = s.marks ∧
          u.proof = s.proof ∧ u.link = s.link ∧ u.tracker = s.tracker ∧ u.meter = s.meter ∧ u.part = s.part ∧
          u.commits = upd s.commits b fun c => { CommitContext.reset with
            flush := c.flush, lowPosted := c.lowPosted || decide (c.newLevel < low) }) ∧
      (let y := u.registry.entries[e]
       idle u ∧ u.ctx[b].level = c.pageData ∧ u.pool.batch[b] = Queue.empty ∧ u.pool.pend = s.pool.pend ∧
         u.pool.carry = s.pool.carry ∧
         y.saved.lastLevel = c.newLevel ∧ y.saved.lastUse = c.newUse ∧ y.saved.residue = c.newResidue ∧
         y.saved.overdraw = min 16777215 (x.saved.overdraw + c.excess) ∧ y.saved.debt = x.saved.debt ∧
         y.commits = (if s.profile.saveInterval ≤ x.commits + 1 then 0 else x.commits + 1) ∧
         (s.profile.saveInterval ≤ x.commits + 1 ∨ s.part = .drain → y.dirty = true) ∧
         (c.excess = 0 → low ≤ c.newLevel → c.newLevel ≠ 0 →
           u.notices = (post .commitDone (some b)
             (toLE 3 c.newLevel ++ toLE 2 c.newUse ++ toLE 1 s.pool.batch[b].count ++ toLE 2 swaths.1 ++
               toLE 2 swaths.2) s).notices)) ∧
      (s.pool.pend[b].total = 0 → s.pool.carry[b] = 0 → c.newResidue < 10 ^ 9 →
        1 ≤ s.profile.bays[b].commitStep → commitSuccess b e s = u)) ∧
    (∀ r : FaultReason, ∃ u : State, refolds (commitFailure b e r s) u ∧ returned u ∧
      (s.pool.carry[b] + c.batchCarry ≤ 2 ^ 56 - 1 →
        u.notices = (post .commitError (some b) (toLE 1 r.code) s).notices) ∧
      (s.ctx[b].state.settled = true ∨ s.ctx[b].state = .faulted → u.ctx = upd s.ctx b fun c =>
        { c with state := .faulted, sticky := { c.sticky with commitError := true } })) ∧
    ∃ u : State, refolds (commitWithdrawn b e s) u ∧ returned u ∧ u.ctx = s.ctx ∧ u.lines = s.lines ∧
      (s.pool.carry[b] + c.batchCarry ≤ 2 ^ 56 - 1 → u.notices = s.notices)

/-- R94, R95, R37 and R132: the level notices of a successful commit, its overdraw test, and what OVERDRAWN makes of the
entry, the bay and the notices, with the stamp it asks for, changed or not, when its mark flag is set. -/
def Obligations.LevelNoticesAndEscalation : Prop :=
  ∀ (b : Bay) (e : EntryIx) (s : State),
    let c := s.commits[b]
    let capacity := pageCapacity (s.ctx[b].identity.getD [])
    let low := capacity * s.profile.bays[b].lowMark / 100
    let lowPosted : State := post .levelLow (some b) (toLE 3 c.newLevel)
      { s with commits := upd s.commits b fun c => { c with lowPosted := true } }
    (c.newLevel < low → c.lowPosted = false → c.newLevel ≠ 0 ∨ c.priorLevel = 0 → levelNotices b s = lowPosted) ∧
    (c.newLevel < low → c.lowPosted = false → c.newLevel = 0 → 0 < c.priorLevel →
      levelNotices b s = post .levelZero (some b) [] lowPosted) ∧
    (low ≤ c.newLevel ∨ c.lowPosted = true →
      levelNotices b s = if c.newLevel = 0 ∧ 0 < c.priorLevel then post .levelZero (some b) [] s else s) ∧
    (let x := s.registry.entries[e].saved
     let p := s.profile.policy
     let a := p.action .overdrawn
     let n := p.allowance .overdrawn
     let worst := if p.rank x.worst < p.rank .overdrawn then .overdrawn else x.worst
     let up := x.held.strength < a.strength ∨ (x.held = .limit ∧ a = .limit ∧ n < x.allowance)
     let t := escalate b e s
     (c.excess = 0 ∨ x.overdraw * 100 ≤ capacity * s.profile.margin → overdrawTest b e s = s) ∧
     (0 < c.excess → capacity * s.profile.margin < x.overdraw * 100 → overdrawTest b e s = t) ∧
     ∃ u : State, t = (if p.overdrawn.mark then requestStamp b .overdrawn u else u) ∧
       (worst = x.worst → ¬up → u = s) ∧
       (worst ≠ x.worst ∨ up →
         let held := if up then a else x.held
         let allowance := if up ∧ a = .limit then (if x.held = .limit then min x.allowance n else n) else x.allowance
         u.registry = { s.registry with entries := upd s.registry.entries e fun n =>
           { n with saved := { n.saved with worst := worst, held := held, allowance := allowance }, dirty := true } } ∧
         u.notices = (post .refillVerdict (some b) ([0x05#8] ++ toLE 1 held.code ++
           toLE 3 (if held = .limit then allowance / 1000000000 else 0)) s).notices ∧
         u.lines = s.lines ∧ u.marks = s.marks ∧ u.commits = s.commits ∧ u.proof = s.proof ∧ u.link = s.link ∧
         u.tracker = s.tracker ∧ u.meter = s.meter ∧ u.part = s.part ∧ u.pool.pend = s.pool.pend ∧
         u.pool.carry = s.pool.carry ∧
         (¬up → u.ctx = s.ctx) ∧
         (up → s.ctx[b].state.settled = true → u.ctx = upd s.ctx b fun c =>
           { c with action := some a, state := match a with
             | .accept => .admitted | .limit => .limited | .block => .blocked }) ∧
         (up → s.ctx[b].state = .faulted → s.ctx[b].owner ≠ none → u.ctx = upd s.ctx b fun c =>
           { c with action := some a })))

/-- R133 to R136: a stamp that is asked for is listed, claimed in the lowest blank slot, or given up with MARKS_FULL; and what
the outcome of a mark claim leaves: after a success and after a failure alike, in READY the next listed stamp is claimed in
the lowest blank slot of the image as it then stands, or each is given up with MARKS_FULL where no slot is blank. -/
def Obligations.StampsAreListedClaimedAndSettled : Prop :=
  ∀ (b : Bay) (s : State),
    let m := s.marks[b]
    let img := s.ctx[b].marks.getD []
    let claim (k : Verdict) (slot : Nat) : Claim :=
      { claimant := .mark, command := .store, page := 3, offset := 4 * slot, length := 4,
        data := [BitVec.ofNat 8 k.code, BitVec.ofNat 8 s.profile.printerId.toNat] ++
          toLE 2 (pageUse (s.ctx[b].level.getD [])) }
    let lowest (img : List Byte) (slot : Nat) : Prop := slot ≤ 6 ∧ field img (4 * slot) 1 = 0xFF ∧
      ∀ j : Nat, j < slot → field img (4 * j) 1 ≠ 0xFF
    let full (img : List Byte) : Prop := ∀ j : Nat, j ≤ 6 → field img (4 * j) 1 ≠ 0xFF
    let claimed (k : Verdict) (slot : Nat) (rest : List Verdict) (t : State) : State :=
      arbitrate b { t with
        marks := upd s.marks b fun _ => { list := rest, inHand := some (k, slot) }
        lines := upd s.lines b fun u => { u with waiting := { u.waiting with mark := some (claim k slot) } } }
    let idle (t : State) : State := { t with marks := upd s.marks b fun _ => { list := [], inHand := none } }
    let settles (o : LineOutcome) (c : Claim) (now : List Byte) (t : State) : Prop :=
      (m.list = [] ∨ s.part ≠ .ready → markOutcome b c o s = idle t) ∧
      (∀ (next : Verdict) (rest : List Verdict), m.list = next :: rest → s.part = .ready → s.ctx[b].marks = some img →
        (∀ free : Nat, lowest now free → s.ctx[b].state ≠ .empty → markOutcome b c o s = claimed next free rest t) ∧
        (full now → markOutcome b c o s = idle (m.list.foldl (fun u _ => post .marksFull (some b) [] u) t)))
    (∀ k : Verdict,
      let ignored := s.part ≠ .ready ∨ s.ctx[b].owner = none ∨ (∃ j : Nat, j ≤ 6 ∧ field img (4 * j) 1 = k.code) ∨
        k ∈ m.list ∨ ∃ slot : Nat, m.inHand = some (k, slot)
      (ignored → requestStamp b k s = s) ∧
      (¬ignored → m.inHand ≠ none →
        requestStamp b k s = { s with marks := upd s.marks b fun m => { m with list := m.list ++ [k] } }) ∧
      (¬ignored → m.inHand = none → m.list = [] →
        (∀ slot : Nat, lowest img slot → s.ctx[b].marks = some img → s.ctx[b].state ≠ .empty →
          requestStamp b k s = claimed k slot [] s) ∧
        (full img → requestStamp b k s = idle (post .marksFull (some b) [] s)))) ∧
    ∀ (k : Verdict) (slot : Nat) (c : Claim), m.inHand = some (k, slot) →
      (∀ d : List Byte,
        let now := img.take (4 * slot) ++ c.data ++ img.drop (4 * slot + c.data.length)
        settles (.success d) c now (post .markWritten (some b) (toLE 1 slot ++ toLE 1 k.code)
          { s with ctx := upd s.ctx b fun x => { x with marks := x.marks.map fun _ => now } })) ∧
      (∀ o : LineOutcome, o = .denied ∨ o = .programFailed ∨ o = .silent ∨ o = .garbled →
        settles o c img (post .markFailed (some b) [] s)) ∧
      (∀ sent : Bool, markOutcome b c (.abandoned sent) s = idle s) ∧ markOutcome b c .withdrawn s = idle s

/-! ### What every step keeps -/

/-- The part at its power-on reset has the invariant: canonical SRAM, an empty notice queue, shut gates, and the 64 records
in FREE; and it has the invariant of DRAINED. -/
def Obligations.InvariantHoldsAtReset : Prop := PartInv State.reset ∧ DrainInv State.reset

/-- Every step that answers a next state keeps the invariant: the SRAM's canonical form, the notice queue's bound and its
QUEUE_FULL (R155, R158, R159), a swath open only in READY (R48), gates shut outside an open swath and bound exactly while
OPEN (R50, R52), and each debit record in exactly one queue with the counts and totals right (R64). -/
def Obligations.EveryStepKeepsTheInvariant : Prop :=
  ∀ s t : State, PartInv s → step s = .next t → PartInv t
end

