-- ==== Sys2Proof/Laws/State.lean ====
section
/-! SUPPORT. What each named update of State does to each of its fields, one lemma a field, true by rfl. -/

namespace Sys2Proof.Machine

@[simp] theorem modCtx_powered (b : Bay) (f : BayContext → BayContext) (s : State) : (s.modCtx b f).powered = s.powered := rfl
@[simp] theorem modCtx_pins (b : Bay) (f : BayContext → BayContext) (s : State) : (s.modCtx b f).pins = s.pins := rfl
@[simp] theorem modCtx_part (b : Bay) (f : BayContext → BayContext) (s : State) : (s.modCtx b f).part = s.part := rfl
@[simp] theorem modCtx_loadPhase (b : Bay) (f : BayContext → BayContext) (s : State) : (s.modCtx b f).loadPhase = s.loadPhase := rfl
@[simp] theorem modCtx_accepted (b : Bay) (f : BayContext → BayContext) (s : State) : (s.modCtx b f).accepted = s.accepted := rfl
@[simp] theorem modCtx_copies (b : Bay) (f : BayContext → BayContext) (s : State) : (s.modCtx b f).copies = s.copies := rfl
@[simp] theorem modCtx_sram (b : Bay) (f : BayContext → BayContext) (s : State) : (s.modCtx b f).sram = s.sram := rfl
@[simp] theorem modCtx_array (b : Bay) (f : BayContext → BayContext) (s : State) : (s.modCtx b f).array = s.array := rfl
@[simp] theorem modCtx_notices (b : Bay) (f : BayContext → BayContext) (s : State) : (s.modCtx b f).notices = s.notices := rfl
@[simp] theorem modCtx_registry (b : Bay) (f : BayContext → BayContext) (s : State) : (s.modCtx b f).registry = s.registry := rfl
@[simp] theorem modCtx_pool (b : Bay) (f : BayContext → BayContext) (s : State) : (s.modCtx b f).pool = s.pool := rfl
@[simp] theorem modCtx_ctx (b : Bay) (f : BayContext → BayContext) (s : State) : (s.modCtx b f).ctx = upd s.ctx b f := rfl
@[simp] theorem modCtx_lines (b : Bay) (f : BayContext → BayContext) (s : State) : (s.modCtx b f).lines = s.lines := rfl
@[simp] theorem modCtx_commits (b : Bay) (f : BayContext → BayContext) (s : State) : (s.modCtx b f).commits = s.commits := rfl
@[simp] theorem modCtx_marks (b : Bay) (f : BayContext → BayContext) (s : State) : (s.modCtx b f).marks = s.marks := rfl
@[simp] theorem modCtx_proof (b : Bay) (f : BayContext → BayContext) (s : State) : (s.modCtx b f).proof = s.proof := rfl
@[simp] theorem modCtx_tracker (b : Bay) (f : BayContext → BayContext) (s : State) : (s.modCtx b f).tracker = s.tracker := rfl
@[simp] theorem modCtx_meter (b : Bay) (f : BayContext → BayContext) (s : State) : (s.modCtx b f).meter = s.meter := rfl
@[simp] theorem modCtx_port (b : Bay) (f : BayContext → BayContext) (s : State) : (s.modCtx b f).port = s.port := rfl
@[simp] theorem modCtx_fire (b : Bay) (f : BayContext → BayContext) (s : State) : (s.modCtx b f).fire = s.fire := rfl
@[simp] theorem modCtx_link (b : Bay) (f : BayContext → BayContext) (s : State) : (s.modCtx b f).link = s.link := rfl
@[simp] theorem modCtx_freeCount (b : Bay) (f : BayContext → BayContext) (s : State) : (s.modCtx b f).freeCount = s.freeCount := rfl
@[simp] theorem modCtx_pending (b : Bay) (f : BayContext → BayContext) (s : State) : (s.modCtx b f).pending = s.pending := rfl

@[simp] theorem modLine_powered (b : Bay) (f : LineUnit → LineUnit) (s : State) : (s.modLine b f).powered = s.powered := rfl
@[simp] theorem modLine_pins (b : Bay) (f : LineUnit → LineUnit) (s : State) : (s.modLine b f).pins = s.pins := rfl
@[simp] theorem modLine_part (b : Bay) (f : LineUnit → LineUnit) (s : State) : (s.modLine b f).part = s.part := rfl
@[simp] theorem modLine_loadPhase (b : Bay) (f : LineUnit → LineUnit) (s : State) : (s.modLine b f).loadPhase = s.loadPhase := rfl
@[simp] theorem modLine_accepted (b : Bay) (f : LineUnit → LineUnit) (s : State) : (s.modLine b f).accepted = s.accepted := rfl
@[simp] theorem modLine_copies (b : Bay) (f : LineUnit → LineUnit) (s : State) : (s.modLine b f).copies = s.copies := rfl
@[simp] theorem modLine_sram (b : Bay) (f : LineUnit → LineUnit) (s : State) : (s.modLine b f).sram = s.sram := rfl
@[simp] theorem modLine_array (b : Bay) (f : LineUnit → LineUnit) (s : State) : (s.modLine b f).array = s.array := rfl
@[simp] theorem modLine_notices (b : Bay) (f : LineUnit → LineUnit) (s : State) : (s.modLine b f).notices = s.notices := rfl
@[simp] theorem modLine_registry (b : Bay) (f : LineUnit → LineUnit) (s : State) : (s.modLine b f).registry = s.registry := rfl
@[simp] theorem modLine_pool (b : Bay) (f : LineUnit → LineUnit) (s : State) : (s.modLine b f).pool = s.pool := rfl
@[simp] theorem modLine_ctx (b : Bay) (f : LineUnit → LineUnit) (s : State) : (s.modLine b f).ctx = s.ctx := rfl
@[simp] theorem modLine_lines (b : Bay) (f : LineUnit → LineUnit) (s : State) : (s.modLine b f).lines = upd s.lines b f := rfl
@[simp] theorem modLine_commits (b : Bay) (f : LineUnit → LineUnit) (s : State) : (s.modLine b f).commits = s.commits := rfl
@[simp] theorem modLine_marks (b : Bay) (f : LineUnit → LineUnit) (s : State) : (s.modLine b f).marks = s.marks := rfl
@[simp] theorem modLine_proof (b : Bay) (f : LineUnit → LineUnit) (s : State) : (s.modLine b f).proof = s.proof := rfl
@[simp] theorem modLine_tracker (b : Bay) (f : LineUnit → LineUnit) (s : State) : (s.modLine b f).tracker = s.tracker := rfl
@[simp] theorem modLine_meter (b : Bay) (f : LineUnit → LineUnit) (s : State) : (s.modLine b f).meter = s.meter := rfl
@[simp] theorem modLine_port (b : Bay) (f : LineUnit → LineUnit) (s : State) : (s.modLine b f).port = s.port := rfl
@[simp] theorem modLine_fire (b : Bay) (f : LineUnit → LineUnit) (s : State) : (s.modLine b f).fire = s.fire := rfl
@[simp] theorem modLine_link (b : Bay) (f : LineUnit → LineUnit) (s : State) : (s.modLine b f).link = s.link := rfl
@[simp] theorem modLine_freeCount (b : Bay) (f : LineUnit → LineUnit) (s : State) : (s.modLine b f).freeCount = s.freeCount := rfl
@[simp] theorem modLine_pending (b : Bay) (f : LineUnit → LineUnit) (s : State) : (s.modLine b f).pending = s.pending := rfl

@[simp] theorem modCommit_powered (b : Bay) (f : CommitContext → CommitContext) (s : State) : (s.modCommit b f).powered = s.powered := rfl
@[simp] theorem modCommit_pins (b : Bay) (f : CommitContext → CommitContext) (s : State) : (s.modCommit b f).pins = s.pins := rfl
@[simp] theorem modCommit_part (b : Bay) (f : CommitContext → CommitContext) (s : State) : (s.modCommit b f).part = s.part := rfl
@[simp] theorem modCommit_loadPhase (b : Bay) (f : CommitContext → CommitContext) (s : State) : (s.modCommit b f).loadPhase = s.loadPhase := rfl
@[simp] theorem modCommit_accepted (b : Bay) (f : CommitContext → CommitContext) (s : State) : (s.modCommit b f).accepted = s.accepted := rfl
@[simp] theorem modCommit_copies (b : Bay) (f : CommitContext → CommitContext) (s : State) : (s.modCommit b f).copies = s.copies := rfl
@[simp] theorem modCommit_sram (b : Bay) (f : CommitContext → CommitContext) (s : State) : (s.modCommit b f).sram = s.sram := rfl
@[simp] theorem modCommit_array (b : Bay) (f : CommitContext → CommitContext) (s : State) : (s.modCommit b f).array = s.array := rfl
@[simp] theorem modCommit_notices (b : Bay) (f : CommitContext → CommitContext) (s : State) : (s.modCommit b f).notices = s.notices := rfl
@[simp] theorem modCommit_registry (b : Bay) (f : CommitContext → CommitContext) (s : State) : (s.modCommit b f).registry = s.registry := rfl
@[simp] theorem modCommit_pool (b : Bay) (f : CommitContext → CommitContext) (s : State) : (s.modCommit b f).pool = s.pool := rfl
@[simp] theorem modCommit_ctx (b : Bay) (f : CommitContext → CommitContext) (s : State) : (s.modCommit b f).ctx = s.ctx := rfl
@[simp] theorem modCommit_lines (b : Bay) (f : CommitContext → CommitContext) (s : State) : (s.modCommit b f).lines = s.lines := rfl
@[simp] theorem modCommit_commits (b : Bay) (f : CommitContext → CommitContext) (s : State) : (s.modCommit b f).commits = upd s.commits b f := rfl
@[simp] theorem modCommit_marks (b : Bay) (f : CommitContext → CommitContext) (s : State) : (s.modCommit b f).marks = s.marks := rfl
@[simp] theorem modCommit_proof (b : Bay) (f : CommitContext → CommitContext) (s : State) : (s.modCommit b f).proof = s.proof := rfl
@[simp] theorem modCommit_tracker (b : Bay) (f : CommitContext → CommitContext) (s : State) : (s.modCommit b f).tracker = s.tracker := rfl
@[simp] theorem modCommit_meter (b : Bay) (f : CommitContext → CommitContext) (s : State) : (s.modCommit b f).meter = s.meter := rfl
@[simp] theorem modCommit_port (b : Bay) (f : CommitContext → CommitContext) (s : State) : (s.modCommit b f).port = s.port := rfl
@[simp] theorem modCommit_fire (b : Bay) (f : CommitContext → CommitContext) (s : State) : (s.modCommit b f).fire = s.fire := rfl
@[simp] theorem modCommit_link (b : Bay) (f : CommitContext → CommitContext) (s : State) : (s.modCommit b f).link = s.link := rfl
@[simp] theorem modCommit_freeCount (b : Bay) (f : CommitContext → CommitContext) (s : State) : (s.modCommit b f).freeCount = s.freeCount := rfl
@[simp] theorem modCommit_pending (b : Bay) (f : CommitContext → CommitContext) (s : State) : (s.modCommit b f).pending = s.pending := rfl

@[simp] theorem modMark_powered (b : Bay) (f : MarkWriter → MarkWriter) (s : State) : (s.modMark b f).powered = s.powered := rfl
@[simp] theorem modMark_pins (b : Bay) (f : MarkWriter → MarkWriter) (s : State) : (s.modMark b f).pins = s.pins := rfl
@[simp] theorem modMark_part (b : Bay) (f : MarkWriter → MarkWriter) (s : State) : (s.modMark b f).part = s.part := rfl
@[simp] theorem modMark_loadPhase (b : Bay) (f : MarkWriter → MarkWriter) (s : State) : (s.modMark b f).loadPhase = s.loadPhase := rfl
@[simp] theorem modMark_accepted (b : Bay) (f : MarkWriter → MarkWriter) (s : State) : (s.modMark b f).accepted = s.accepted := rfl
@[simp] theorem modMark_copies (b : Bay) (f : MarkWriter → MarkWriter) (s : State) : (s.modMark b f).copies = s.copies := rfl
@[simp] theorem modMark_sram (b : Bay) (f : MarkWriter → MarkWriter) (s : State) : (s.modMark b f).sram = s.sram := rfl
@[simp] theorem modMark_array (b : Bay) (f : MarkWriter → MarkWriter) (s : State) : (s.modMark b f).array = s.array := rfl
@[simp] theorem modMark_notices (b : Bay) (f : MarkWriter → MarkWriter) (s : State) : (s.modMark b f).notices = s.notices := rfl
@[simp] theorem modMark_registry (b : Bay) (f : MarkWriter → MarkWriter) (s : State) : (s.modMark b f).registry = s.registry := rfl
@[simp] theorem modMark_pool (b : Bay) (f : MarkWriter → MarkWriter) (s : State) : (s.modMark b f).pool = s.pool := rfl
@[simp] theorem modMark_ctx (b : Bay) (f : MarkWriter → MarkWriter) (s : State) : (s.modMark b f).ctx = s.ctx := rfl
@[simp] theorem modMark_lines (b : Bay) (f : MarkWriter → MarkWriter) (s : State) : (s.modMark b f).lines = s.lines := rfl
@[simp] theorem modMark_commits (b : Bay) (f : MarkWriter → MarkWriter) (s : State) : (s.modMark b f).commits = s.commits := rfl
@[simp] theorem modMark_marks (b : Bay) (f : MarkWriter → MarkWriter) (s : State) : (s.modMark b f).marks = upd s.marks b f := rfl
@[simp] theorem modMark_proof (b : Bay) (f : MarkWriter → MarkWriter) (s : State) : (s.modMark b f).proof = s.proof := rfl
@[simp] theorem modMark_tracker (b : Bay) (f : MarkWriter → MarkWriter) (s : State) : (s.modMark b f).tracker = s.tracker := rfl
@[simp] theorem modMark_meter (b : Bay) (f : MarkWriter → MarkWriter) (s : State) : (s.modMark b f).meter = s.meter := rfl
@[simp] theorem modMark_port (b : Bay) (f : MarkWriter → MarkWriter) (s : State) : (s.modMark b f).port = s.port := rfl
@[simp] theorem modMark_fire (b : Bay) (f : MarkWriter → MarkWriter) (s : State) : (s.modMark b f).fire = s.fire := rfl
@[simp] theorem modMark_link (b : Bay) (f : MarkWriter → MarkWriter) (s : State) : (s.modMark b f).link = s.link := rfl
@[simp] theorem modMark_freeCount (b : Bay) (f : MarkWriter → MarkWriter) (s : State) : (s.modMark b f).freeCount = s.freeCount := rfl
@[simp] theorem modMark_pending (b : Bay) (f : MarkWriter → MarkWriter) (s : State) : (s.modMark b f).pending = s.pending := rfl

@[simp] theorem modEntry_powered (e : EntryIx) (f : Entry → Entry) (s : State) : (s.modEntry e f).powered = s.powered := rfl
@[simp] theorem modEntry_pins (e : EntryIx) (f : Entry → Entry) (s : State) : (s.modEntry e f).pins = s.pins := rfl
@[simp] theorem modEntry_part (e : EntryIx) (f : Entry → Entry) (s : State) : (s.modEntry e f).part = s.part := rfl
@[simp] theorem modEntry_loadPhase (e : EntryIx) (f : Entry → Entry) (s : State) : (s.modEntry e f).loadPhase = s.loadPhase := rfl
@[simp] theorem modEntry_accepted (e : EntryIx) (f : Entry → Entry) (s : State) : (s.modEntry e f).accepted = s.accepted := rfl
@[simp] theorem modEntry_copies (e : EntryIx) (f : Entry → Entry) (s : State) : (s.modEntry e f).copies = s.copies := rfl
@[simp] theorem modEntry_sram (e : EntryIx) (f : Entry → Entry) (s : State) : (s.modEntry e f).sram = s.sram := rfl
@[simp] theorem modEntry_array (e : EntryIx) (f : Entry → Entry) (s : State) : (s.modEntry e f).array = s.array := rfl
@[simp] theorem modEntry_notices (e : EntryIx) (f : Entry → Entry) (s : State) : (s.modEntry e f).notices = s.notices := rfl
@[simp] theorem modEntry_registry (e : EntryIx) (f : Entry → Entry) (s : State) : (s.modEntry e f).registry = { s.registry with entries := upd s.registry.entries e f } := rfl
@[simp] theorem modEntry_pool (e : EntryIx) (f : Entry → Entry) (s : State) : (s.modEntry e f).pool = s.pool := rfl
@[simp] theorem modEntry_ctx (e : EntryIx) (f : Entry → Entry) (s : State) : (s.modEntry e f).ctx = s.ctx := rfl
@[simp] theorem modEntry_lines (e : EntryIx) (f : Entry → Entry) (s : State) : (s.modEntry e f).lines = s.lines := rfl
@[simp] theorem modEntry_commits (e : EntryIx) (f : Entry → Entry) (s : State) : (s.modEntry e f).commits = s.commits := rfl
@[simp] theorem modEntry_marks (e : EntryIx) (f : Entry → Entry) (s : State) : (s.modEntry e f).marks = s.marks := rfl
@[simp] theorem modEntry_proof (e : EntryIx) (f : Entry → Entry) (s : State) : (s.modEntry e f).proof = s.proof := rfl
@[simp] theorem modEntry_tracker (e : EntryIx) (f : Entry → Entry) (s : State) : (s.modEntry e f).tracker = s.tracker := rfl
@[simp] theorem modEntry_meter (e : EntryIx) (f : Entry → Entry) (s : State) : (s.modEntry e f).meter = s.meter := rfl
@[simp] theorem modEntry_port (e : EntryIx) (f : Entry → Entry) (s : State) : (s.modEntry e f).port = s.port := rfl
@[simp] theorem modEntry_fire (e : EntryIx) (f : Entry → Entry) (s : State) : (s.modEntry e f).fire = s.fire := rfl
@[simp] theorem modEntry_link (e : EntryIx) (f : Entry → Entry) (s : State) : (s.modEntry e f).link = s.link := rfl
@[simp] theorem modEntry_freeCount (e : EntryIx) (f : Entry → Entry) (s : State) : (s.modEntry e f).freeCount = s.freeCount := rfl
@[simp] theorem modEntry_pending (e : EntryIx) (f : Entry → Entry) (s : State) : (s.modEntry e f).pending = s.pending := rfl

@[simp] theorem modHeader_powered (f : Header → Header) (s : State) : (s.modHeader f).powered = s.powered := rfl
@[simp] theorem modHeader_pins (f : Header → Header) (s : State) : (s.modHeader f).pins = s.pins := rfl
@[simp] theorem modHeader_part (f : Header → Header) (s : State) : (s.modHeader f).part = s.part := rfl
@[simp] theorem modHeader_loadPhase (f : Header → Header) (s : State) : (s.modHeader f).loadPhase = s.loadPhase := rfl
@[simp] theorem modHeader_accepted (f : Header → Header) (s : State) : (s.modHeader f).accepted = s.accepted := rfl
@[simp] theorem modHeader_copies (f : Header → Header) (s : State) : (s.modHeader f).copies = s.copies := rfl
@[simp] theorem modHeader_sram (f : Header → Header) (s : State) : (s.modHeader f).sram = s.sram := rfl
@[simp] theorem modHeader_array (f : Header → Header) (s : State) : (s.modHeader f).array = s.array := rfl
@[simp] theorem modHeader_notices (f : Header → Header) (s : State) : (s.modHeader f).notices = s.notices := rfl
@[simp] theorem modHeader_registry (f : Header → Header) (s : State) : (s.modHeader f).registry = { s.registry with header := f s.registry.header } := rfl
@[simp] theorem modHeader_pool (f : Header → Header) (s : State) : (s.modHeader f).pool = s.pool := rfl
@[simp] theorem modHeader_ctx (f : Header → Header) (s : State) : (s.modHeader f).ctx = s.ctx := rfl
@[simp] theorem modHeader_lines (f : Header → Header) (s : State) : (s.modHeader f).lines = s.lines := rfl
@[simp] theorem modHeader_commits (f : Header → Header) (s : State) : (s.modHeader f).commits = s.commits := rfl
@[simp] theorem modHeader_marks (f : Header → Header) (s : State) : (s.modHeader f).marks = s.marks := rfl
@[simp] theorem modHeader_proof (f : Header → Header) (s : State) : (s.modHeader f).proof = s.proof := rfl
@[simp] theorem modHeader_tracker (f : Header → Header) (s : State) : (s.modHeader f).tracker = s.tracker := rfl
@[simp] theorem modHeader_meter (f : Header → Header) (s : State) : (s.modHeader f).meter = s.meter := rfl
@[simp] theorem modHeader_port (f : Header → Header) (s : State) : (s.modHeader f).port = s.port := rfl
@[simp] theorem modHeader_fire (f : Header → Header) (s : State) : (s.modHeader f).fire = s.fire := rfl
@[simp] theorem modHeader_link (f : Header → Header) (s : State) : (s.modHeader f).link = s.link := rfl
@[simp] theorem modHeader_freeCount (f : Header → Header) (s : State) : (s.modHeader f).freeCount = s.freeCount := rfl
@[simp] theorem modHeader_pending (f : Header → Header) (s : State) : (s.modHeader f).pending = s.pending := rfl

@[simp] theorem modPool_powered (f : DebitPool → DebitPool) (s : State) : (s.modPool f).powered = s.powered := rfl
@[simp] theorem modPool_pins (f : DebitPool → DebitPool) (s : State) : (s.modPool f).pins = s.pins := rfl
@[simp] theorem modPool_part (f : DebitPool → DebitPool) (s : State) : (s.modPool f).part = s.part := rfl
@[simp] theorem modPool_loadPhase (f : DebitPool → DebitPool) (s : State) : (s.modPool f).loadPhase = s.loadPhase := rfl
@[simp] theorem modPool_accepted (f : DebitPool → DebitPool) (s : State) : (s.modPool f).accepted = s.accepted := rfl
@[simp] theorem modPool_copies (f : DebitPool → DebitPool) (s : State) : (s.modPool f).copies = s.copies := rfl
@[simp] theorem modPool_sram (f : DebitPool → DebitPool) (s : State) : (s.modPool f).sram = s.sram := rfl
@[simp] theorem modPool_array (f : DebitPool → DebitPool) (s : State) : (s.modPool f).array = s.array := rfl
@[simp] theorem modPool_notices (f : DebitPool → DebitPool) (s : State) : (s.modPool f).notices = s.notices := rfl
@[simp] theorem modPool_registry (f : DebitPool → DebitPool) (s : State) : (s.modPool f).registry = s.registry := rfl
@[simp] theorem modPool_pool (f : DebitPool → DebitPool) (s : State) : (s.modPool f).pool = f s.pool := rfl
@[simp] theorem modPool_ctx (f : DebitPool → DebitPool) (s : State) : (s.modPool f).ctx = s.ctx := rfl
@[simp] theorem modPool_lines (f : DebitPool → DebitPool) (s : State) : (s.modPool f).lines = s.lines := rfl
@[simp] theorem modPool_commits (f : DebitPool → DebitPool) (s : State) : (s.modPool f).commits = s.commits := rfl
@[simp] theorem modPool_marks (f : DebitPool → DebitPool) (s : State) : (s.modPool f).marks = s.marks := rfl
@[simp] theorem modPool_proof (f : DebitPool → DebitPool) (s : State) : (s.modPool f).proof = s.proof := rfl
@[simp] theorem modPool_tracker (f : DebitPool → DebitPool) (s : State) : (s.modPool f).tracker = s.tracker := rfl
@[simp] theorem modPool_meter (f : DebitPool → DebitPool) (s : State) : (s.modPool f).meter = s.meter := rfl
@[simp] theorem modPool_port (f : DebitPool → DebitPool) (s : State) : (s.modPool f).port = s.port := rfl
@[simp] theorem modPool_fire (f : DebitPool → DebitPool) (s : State) : (s.modPool f).fire = s.fire := rfl
@[simp] theorem modPool_link (f : DebitPool → DebitPool) (s : State) : (s.modPool f).link = s.link := rfl
@[simp] theorem modPool_freeCount (f : DebitPool → DebitPool) (s : State) : (s.modPool f).freeCount = s.freeCount := rfl
@[simp] theorem modPool_pending (f : DebitPool → DebitPool) (s : State) : (s.modPool f).pending = s.pending := rfl

@[simp] theorem modLink_powered (f : LinkPort → LinkPort) (s : State) : (s.modLink f).powered = s.powered := rfl
@[simp] theorem modLink_pins (f : LinkPort → LinkPort) (s : State) : (s.modLink f).pins = s.pins := rfl
@[simp] theorem modLink_part (f : LinkPort → LinkPort) (s : State) : (s.modLink f).part = s.part := rfl
@[simp] theorem modLink_loadPhase (f : LinkPort → LinkPort) (s : State) : (s.modLink f).loadPhase = s.loadPhase := rfl
@[simp] theorem modLink_accepted (f : LinkPort → LinkPort) (s : State) : (s.modLink f).accepted = s.accepted := rfl
@[simp] theorem modLink_copies (f : LinkPort → LinkPort) (s : State) : (s.modLink f).copies = s.copies := rfl
@[simp] theorem modLink_sram (f : LinkPort → LinkPort) (s : State) : (s.modLink f).sram = s.sram := rfl
@[simp] theorem modLink_array (f : LinkPort → LinkPort) (s : State) : (s.modLink f).array = s.array := rfl
@[simp] theorem modLink_notices (f : LinkPort → LinkPort) (s : State) : (s.modLink f).notices = s.notices := rfl
@[simp] theorem modLink_registry (f : LinkPort → LinkPort) (s : State) : (s.modLink f).registry = s.registry := rfl
@[simp] theorem modLink_pool (f : LinkPort → LinkPort) (s : State) : (s.modLink f).pool = s.pool := rfl
@[simp] theorem modLink_ctx (f : LinkPort → LinkPort) (s : State) : (s.modLink f).ctx = s.ctx := rfl
@[simp] theorem modLink_lines (f : LinkPort → LinkPort) (s : State) : (s.modLink f).lines = s.lines := rfl
@[simp] theorem modLink_commits (f : LinkPort → LinkPort) (s : State) : (s.modLink f).commits = s.commits := rfl
@[simp] theorem modLink_marks (f : LinkPort → LinkPort) (s : State) : (s.modLink f).marks = s.marks := rfl
@[simp] theorem modLink_proof (f : LinkPort → LinkPort) (s : State) : (s.modLink f).proof = s.proof := rfl
@[simp] theorem modLink_tracker (f : LinkPort → LinkPort) (s : State) : (s.modLink f).tracker = s.tracker := rfl
@[simp] theorem modLink_meter (f : LinkPort → LinkPort) (s : State) : (s.modLink f).meter = s.meter := rfl
@[simp] theorem modLink_port (f : LinkPort → LinkPort) (s : State) : (s.modLink f).port = s.port := rfl
@[simp] theorem modLink_fire (f : LinkPort → LinkPort) (s : State) : (s.modLink f).fire = s.fire := rfl
@[simp] theorem modLink_link (f : LinkPort → LinkPort) (s : State) : (s.modLink f).link = f s.link := rfl
@[simp] theorem modLink_freeCount (f : LinkPort → LinkPort) (s : State) : (s.modLink f).freeCount = s.freeCount := rfl
@[simp] theorem modLink_pending (f : LinkPort → LinkPort) (s : State) : (s.modLink f).pending = s.pending := rfl

@[simp] theorem modPins_powered (f : Pins → Pins) (s : State) : (s.modPins f).powered = s.powered := rfl
@[simp] theorem modPins_pins (f : Pins → Pins) (s : State) : (s.modPins f).pins = f s.pins := rfl
@[simp] theorem modPins_part (f : Pins → Pins) (s : State) : (s.modPins f).part = s.part := rfl
@[simp] theorem modPins_loadPhase (f : Pins → Pins) (s : State) : (s.modPins f).loadPhase = s.loadPhase := rfl
@[simp] theorem modPins_accepted (f : Pins → Pins) (s : State) : (s.modPins f).accepted = s.accepted := rfl
@[simp] theorem modPins_copies (f : Pins → Pins) (s : State) : (s.modPins f).copies = s.copies := rfl
@[simp] theorem modPins_sram (f : Pins → Pins) (s : State) : (s.modPins f).sram = s.sram := rfl
@[simp] theorem modPins_array (f : Pins → Pins) (s : State) : (s.modPins f).array = s.array := rfl
@[simp] theorem modPins_notices (f : Pins → Pins) (s : State) : (s.modPins f).notices = s.notices := rfl
@[simp] theorem modPins_registry (f : Pins → Pins) (s : State) : (s.modPins f).registry = s.registry := rfl
@[simp] theorem modPins_pool (f : Pins → Pins) (s : State) : (s.modPins f).pool = s.pool := rfl
@[simp] theorem modPins_ctx (f : Pins → Pins) (s : State) : (s.modPins f).ctx = s.ctx := rfl
@[simp] theorem modPins_lines (f : Pins → Pins) (s : State) : (s.modPins f).lines = s.lines := rfl
@[simp] theorem modPins_commits (f : Pins → Pins) (s : State) : (s.modPins f).commits = s.commits := rfl
@[simp] theorem modPins_marks (f : Pins → Pins) (s : State) : (s.modPins f).marks = s.marks := rfl
@[simp] theorem modPins_proof (f : Pins → Pins) (s : State) : (s.modPins f).proof = s.proof := rfl
@[simp] theorem modPins_tracker (f : Pins → Pins) (s : State) : (s.modPins f).tracker = s.tracker := rfl
@[simp] theorem modPins_meter (f : Pins → Pins) (s : State) : (s.modPins f).meter = s.meter := rfl
@[simp] theorem modPins_port (f : Pins → Pins) (s : State) : (s.modPins f).port = s.port := rfl
@[simp] theorem modPins_fire (f : Pins → Pins) (s : State) : (s.modPins f).fire = s.fire := rfl
@[simp] theorem modPins_link (f : Pins → Pins) (s : State) : (s.modPins f).link = s.link := rfl
@[simp] theorem modPins_freeCount (f : Pins → Pins) (s : State) : (s.modPins f).freeCount = s.freeCount := rfl
@[simp] theorem modPins_pending (f : Pins → Pins) (s : State) : (s.modPins f).pending = s.pending := rfl

@[simp] theorem bumpFree_powered (s : State) : s.bumpFree.powered = s.powered := rfl
@[simp] theorem bumpFree_pins (s : State) : s.bumpFree.pins = s.pins := rfl
@[simp] theorem bumpFree_part (s : State) : s.bumpFree.part = s.part := rfl
@[simp] theorem bumpFree_loadPhase (s : State) : s.bumpFree.loadPhase = s.loadPhase := rfl
@[simp] theorem bumpFree_accepted (s : State) : s.bumpFree.accepted = s.accepted := rfl
@[simp] theorem bumpFree_copies (s : State) : s.bumpFree.copies = s.copies := rfl
@[simp] theorem bumpFree_sram (s : State) : s.bumpFree.sram = s.sram := rfl
@[simp] theorem bumpFree_array (s : State) : s.bumpFree.array = s.array := rfl
@[simp] theorem bumpFree_notices (s : State) : s.bumpFree.notices = s.notices := rfl
@[simp] theorem bumpFree_registry (s : State) : s.bumpFree.registry = s.registry := rfl
@[simp] theorem bumpFree_pool (s : State) : s.bumpFree.pool = s.pool := rfl
@[simp] theorem bumpFree_ctx (s : State) : s.bumpFree.ctx = s.ctx := rfl
@[simp] theorem bumpFree_lines (s : State) : s.bumpFree.lines = s.lines := rfl
@[simp] theorem bumpFree_commits (s : State) : s.bumpFree.commits = s.commits := rfl
@[simp] theorem bumpFree_marks (s : State) : s.bumpFree.marks = s.marks := rfl
@[simp] theorem bumpFree_proof (s : State) : s.bumpFree.proof = s.proof := rfl
@[simp] theorem bumpFree_tracker (s : State) : s.bumpFree.tracker = s.tracker := rfl
@[simp] theorem bumpFree_meter (s : State) : s.bumpFree.meter = s.meter := rfl
@[simp] theorem bumpFree_port (s : State) : s.bumpFree.port = s.port := rfl
@[simp] theorem bumpFree_fire (s : State) : s.bumpFree.fire = s.fire := rfl
@[simp] theorem bumpFree_link (s : State) : s.bumpFree.link = s.link := rfl
@[simp] theorem bumpFree_freeCount (s : State) : s.bumpFree.freeCount = s.freeCount + 1 := rfl
@[simp] theorem bumpFree_pending (s : State) : s.bumpFree.pending = s.pending := rfl

/-- `f` taken with power on, and nothing without. -/
@[simp] theorem whenPowered_on (f : State → State) (s : State) (h : s.powered = true) : whenPowered f s = f s := by
  simp [whenPowered, h]

@[simp] theorem whenPowered_off (f : State → State) (s : State) (h : s.powered = false) : whenPowered f s = s := by
  simp [whenPowered, h]

end Sys2Proof.Machine
end

