-- ==== Sys2Proof/Laws/Notices.lean ====
section
/-! SUPPORT. What a posting can do: it changes the notice unit and a starvation count, and keeps the queue's bound. -/

namespace Sys2Proof.Machine

/-! ### What posting leaves alone -/

/-- A posting or a frame start changes the notices, and the pool's starvation counts, and nothing else. -/
structure OnlyNotices (s t : State) : Prop where
  rest : t = { s with notices := t.notices, pool := { s.pool with starved := t.pool.starved } }

theorem OnlyNotices.refl (s : State) : OnlyNotices s s := ⟨rfl⟩

theorem OnlyNotices.trans {s t u : State} (h : OnlyNotices s t) (k : OnlyNotices t u) : OnlyNotices s u := by
  constructor
  obtain ⟨e⟩ := h
  obtain ⟨e'⟩ := k
  rw [e']
  simp only
  rw [e]

theorem onlyNotices_beginFrame (s : State) : OnlyNotices s (beginFrame s) := by
  constructor
  unfold beginFrame
  split
  · dsimp only
    split
    · split <;> rfl
    · split <;> rfl
  · rfl

theorem onlyNotices_append (k : NoticeKind) (b : Option Bay) (p : List Byte) (s : State) :
    OnlyNotices s (appendNotice k b p s) :=
  OnlyNotices.trans ⟨rfl⟩ (onlyNotices_beginFrame _)

theorem onlyNotices_post (k : NoticeKind) (b : Option Bay) (p : List Byte) (s : State) : OnlyNotices s (post k b p s) := by
  unfold post
  split
  · exact .refl s
  · split
    · exact ⟨rfl⟩
    · split
      · exact ⟨rfl⟩
      · split
        · exact onlyNotices_append k b p s
        · exact OnlyNotices.trans ⟨rfl⟩ (onlyNotices_append _ _ _ _)

theorem onlyNotices_frameSent (s : State) : OnlyNotices s (frameSent s) := by
  unfold frameSent
  split
  · exact .refl s
  · exact OnlyNotices.trans ⟨rfl⟩ (onlyNotices_beginFrame _)

/-! ### A frame's bits on the line (R162) -/

@[simp] theorem byteBits_length (v : Byte) : (byteBits v).length = 10 := by simp [byteBits]

@[simp] theorem serialBits_length : ∀ l : List Byte, (serialBits l).length = 10 * l.length
  | [] => rfl
  | v :: l => by
    have h := serialBits_length l
    simp only [serialBits] at h
    simp only [serialBits, List.flatMap_cons, List.length_append, byteBits_length, h, List.length_cons]
    omega

/-- Byte `i` of the bytes sent takes bits 10i to 10i + 9. -/
theorem serialBits_byte : ∀ (l : List Byte) (i : Nat) (v : Byte), l[i]? = some v →
    ((serialBits l).drop (10 * i)).take 10 = byteBits v
  | x :: l, 0, v, h => by
    cases h
    simp [serialBits]
  | x :: l, i + 1, v, h => by
    have h' : l[i]? = some v := h
    rw [← serialBits_byte l i v h', show serialBits (x :: l) = byteBits x ++ serialBits l from rfl,
      show 10 * (i + 1) = (byteBits x).length + 10 * i by simp; omega, List.drop_length_add_append]

/-! ### The notices that a posting leaves depend on the notices and the starvation counts alone -/

theorem beginFrame_notices_congr {s t : State} (h : s.notices = t.notices) (hp : s.pool.starved = t.pool.starved) :
    (beginFrame s).notices = (beginFrame t).notices := by
  unfold beginFrame
  rw [h, hp]
  repeat' split
  all_goals first | rfl | exact h

theorem appendNotice_notices_congr (k : NoticeKind) (b : Option Bay) (d : List Byte) {s t : State}
    (h : s.notices = t.notices) (hp : s.pool.starved = t.pool.starved) :
    (appendNotice k b d s).notices = (appendNotice k b d t).notices := by
  unfold appendNotice
  rw [h]
  exact beginFrame_notices_congr rfl hp

theorem post_notices_congr (k : NoticeKind) (b : Option Bay) (d : List Byte) {s t : State}
    (h : s.notices = t.notices) (hp : s.pool.starved = t.pool.starved) :
    (post k b d s).notices = (post k b d t).notices := by
  unfold post
  rw [h]
  repeat' split
  all_goals first
    | exact h
    | rfl
    | exact appendNotice_notices_congr _ _ _ h hp
    | exact appendNotice_notices_congr _ _ _ rfl hp

/-- A posting and a change of the link port are independent. -/
theorem post_setLink (k : NoticeKind) (b : Option Bay) (d : List Byte) (l : LinkPort) (s : State) :
    post k b d { s with link := l } = { post k b d s with link := l } := by
  have begins : ∀ t : State, beginFrame { t with link := l } = { beginFrame t with link := l } := by
    intro t
    unfold beginFrame
    dsimp only
    repeat' split
    all_goals rfl
  have appends : ∀ (k : NoticeKind) (d : List Byte) (b : Option Bay) (t : State),
      appendNotice k b d { t with link := l } = { appendNotice k b d t with link := l } := by
    intro k d b t
    unfold appendNotice
    exact begins { t with notices := _ }
  unfold post
  dsimp only
  repeat' split
  all_goals first
    | rfl
    | exact appends _ _ _ _
    | exact appends _ _ _ { s with notices := { s.notices with closed := true } }

/-! ### Each field through a posting -/

section
variable {s t : State} (h : OnlyNotices s t)
include h
theorem OnlyNotices.powered : t.powered = s.powered := by rw [h.rest]
theorem OnlyNotices.pins : t.pins = s.pins := by rw [h.rest]
theorem OnlyNotices.part : t.part = s.part := by rw [h.rest]
theorem OnlyNotices.loadPhase : t.loadPhase = s.loadPhase := by rw [h.rest]
theorem OnlyNotices.accepted : t.accepted = s.accepted := by rw [h.rest]
theorem OnlyNotices.copies : t.copies = s.copies := by rw [h.rest]
theorem OnlyNotices.sram : t.sram = s.sram := by rw [h.rest]
theorem OnlyNotices.array : t.array = s.array := by rw [h.rest]
theorem OnlyNotices.registry : t.registry = s.registry := by rw [h.rest]
theorem OnlyNotices.ctx : t.ctx = s.ctx := by rw [h.rest]
theorem OnlyNotices.lines : t.lines = s.lines := by rw [h.rest]
theorem OnlyNotices.commits : t.commits = s.commits := by rw [h.rest]
theorem OnlyNotices.marks : t.marks = s.marks := by rw [h.rest]
theorem OnlyNotices.proof : t.proof = s.proof := by rw [h.rest]
theorem OnlyNotices.tracker : t.tracker = s.tracker := by rw [h.rest]
theorem OnlyNotices.meter : t.meter = s.meter := by rw [h.rest]
theorem OnlyNotices.port : t.port = s.port := by rw [h.rest]
theorem OnlyNotices.fire : t.fire = s.fire := by rw [h.rest]
theorem OnlyNotices.link : t.link = s.link := by rw [h.rest]
theorem OnlyNotices.freeCount : t.freeCount = s.freeCount := by rw [h.rest]
theorem OnlyNotices.pending : t.pending = s.pending := by rw [h.rest]
theorem OnlyNotices.poolRecords : t.pool.records = s.pool.records := by rw [h.rest]
theorem OnlyNotices.poolFree : t.pool.free = s.pool.free := by rw [h.rest]
theorem OnlyNotices.poolPend : t.pool.pend = s.pool.pend := by rw [h.rest]
theorem OnlyNotices.poolBatch : t.pool.batch = s.pool.batch := by rw [h.rest]
theorem OnlyNotices.poolCarry : t.pool.carry = s.pool.carry := by rw [h.rest]
end

section
variable (k : NoticeKind) (b : Option Bay) (p : List Byte) (s : State)
@[simp] theorem post_powered : (post k b p s).powered = s.powered := (onlyNotices_post k b p s).powered
@[simp] theorem post_pins : (post k b p s).pins = s.pins := (onlyNotices_post k b p s).pins
@[simp] theorem post_part : (post k b p s).part = s.part := (onlyNotices_post k b p s).part
@[simp] theorem post_loadPhase : (post k b p s).loadPhase = s.loadPhase := (onlyNotices_post k b p s).loadPhase
@[simp] theorem post_accepted : (post k b p s).accepted = s.accepted := (onlyNotices_post k b p s).accepted
@[simp] theorem post_copies : (post k b p s).copies = s.copies := (onlyNotices_post k b p s).copies
@[simp] theorem post_sram : (post k b p s).sram = s.sram := (onlyNotices_post k b p s).sram
@[simp] theorem post_array : (post k b p s).array = s.array := (onlyNotices_post k b p s).array
@[simp] theorem post_registry : (post k b p s).registry = s.registry := (onlyNotices_post k b p s).registry
@[simp] theorem post_ctx : (post k b p s).ctx = s.ctx := (onlyNotices_post k b p s).ctx
@[simp] theorem post_lines : (post k b p s).lines = s.lines := (onlyNotices_post k b p s).lines
@[simp] theorem post_commits : (post k b p s).commits = s.commits := (onlyNotices_post k b p s).commits
@[simp] theorem post_marks : (post k b p s).marks = s.marks := (onlyNotices_post k b p s).marks
@[simp] theorem post_proof : (post k b p s).proof = s.proof := (onlyNotices_post k b p s).proof
@[simp] theorem post_tracker : (post k b p s).tracker = s.tracker := (onlyNotices_post k b p s).tracker
@[simp] theorem post_meter : (post k b p s).meter = s.meter := (onlyNotices_post k b p s).meter
@[simp] theorem post_port : (post k b p s).port = s.port := (onlyNotices_post k b p s).port
@[simp] theorem post_fire : (post k b p s).fire = s.fire := (onlyNotices_post k b p s).fire
@[simp] theorem post_link : (post k b p s).link = s.link := (onlyNotices_post k b p s).link
@[simp] theorem post_freeCount : (post k b p s).freeCount = s.freeCount := (onlyNotices_post k b p s).freeCount
@[simp] theorem post_pending : (post k b p s).pending = s.pending := (onlyNotices_post k b p s).pending
@[simp] theorem post_poolRecords : (post k b p s).pool.records = s.pool.records := (onlyNotices_post k b p s).poolRecords
@[simp] theorem post_poolFree : (post k b p s).pool.free = s.pool.free := (onlyNotices_post k b p s).poolFree
@[simp] theorem post_poolPend : (post k b p s).pool.pend = s.pool.pend := (onlyNotices_post k b p s).poolPend
@[simp] theorem post_poolBatch : (post k b p s).pool.batch = s.pool.batch := (onlyNotices_post k b p s).poolBatch
@[simp] theorem post_poolCarry : (post k b p s).pool.carry = s.pool.carry := (onlyNotices_post k b p s).poolCarry
end

/-! ### The queue's bound -/

/-- What `NoticeUnit.ok` looks at in a notice. -/
def Notice.key (n : Notice) : Bool × Bool := (n.sending, n.waitingFull)

theorem NoticeUnit.ok_congr {u v : NoticeUnit} (hq : v.queue.map Notice.key = u.queue.map Notice.key)
    (hc : v.closed = u.closed) (ht : (v.transmitter = .idle ↔ u.transmitter = .idle)) (h : u.ok = true) : v.ok = true := by
  have all1 : ∀ l m : List Notice, l.map Notice.key = m.map Notice.key →
      (l.all fun n => !n.waitingFull) = m.all fun n => !n.waitingFull := by
    intro l m e
    have : ∀ l : List Notice, (l.all fun n => !n.waitingFull) = (l.map Notice.key).all fun k => !k.2 := by
      intro l; simp [List.all_map, Notice.key, Function.comp_def]
    rw [this, this, e]
  have all2 : ∀ l m : List Notice, l.map Notice.key = m.map Notice.key →
      (l.all fun n => !n.sending) = m.all fun n => !n.sending := by
    intro l m e
    have : ∀ l : List Notice, (l.all fun n => !n.sending) = (l.map Notice.key).all fun k => !k.1 := by
      intro l; simp [List.all_map, Notice.key, Function.comp_def]
    rw [this, this, e]
  have len : v.queue.length = u.queue.length := by
    have := congrArg List.length hq; simpa using this
  have last : lastWaits v.queue = lastWaits u.queue := by
    have : ∀ l : List Notice, lastWaits l = (((l.map Notice.key).getLast?).map Prod.snd).getD false := by
      intro l
      unfold lastWaits
      rw [List.getLast?_map]
      cases l.getLast? <;> rfl
    rw [this, this, hq]
  have drop : (v.queue.dropLast.all fun n => !n.waitingFull) = u.queue.dropLast.all fun n => !n.waitingFull := by
    refine all1 _ _ ?_
    rw [List.map_dropLast, List.map_dropLast, hq]
  unfold NoticeUnit.ok NoticeUnit.queueOk NoticeUnit.headOk at h ⊢
  rw [hc, len, last, drop, all1 _ _ hq]
  simp only [Bool.and_eq_true] at h ⊢
  refine ⟨?_, h.2⟩
  cases hv : v.transmitter with
  | idle =>
    have hu := ht.1 hv
    rw [hu] at h
    simp only [List.isEmpty_iff] at h ⊢
    have := h.1
    rw [this] at hq
    simpa using hq
  | sending r =>
    cases hu : u.transmitter with
    | idle => have := ht.2 hu; rw [hv] at this; cases this
    | sending r' =>
      rw [hu] at h
      cases hq1 : v.queue with
      | nil =>
        cases hq2 : u.queue with
        | nil => rw [hq2] at h; simp at h
        | cons n ns => rw [hq1, hq2] at hq; simp at hq
      | cons n ns =>
        cases hq2 : u.queue with
        | nil => rw [hq1, hq2] at hq; simp at hq
        | cons m ms =>
          rw [hq1, hq2] at hq
          rw [hq2] at h
          simp only [List.map_cons, List.cons.injEq] at hq
          have h1 : n.sending = m.sending := congrArg Prod.fst hq.1
          have h2 := all2 _ _ hq.2
          simp only at h ⊢
          rw [h1, h2]
          exact h.1

theorem bumpFirst_key (p : Notice → Bool) : ∀ l : List Notice, (bumpFirst p l).map Notice.key = l.map Notice.key
  | [] => rfl
  | n :: ns => by
    unfold bumpFirst
    split
    · rfl
    · simp [bumpFirst_key p ns]

/-- An append to an ok queue with the closed mark clear and fewer than 15 notices held keeps it ok. -/
theorem appendNotice_ok (k : NoticeKind) (b : Option Bay) (p : List Byte) (s : State) (h : s.notices.ok = true)
    (hk : k ≠ .queueFull) (hc : s.notices.closed = false) (hl : s.notices.queue.length < 15) :
    (appendNotice k b p s).notices.ok = true := by
  cases ht : s.notices.transmitter with
  | idle =>
    have hq : s.notices.queue = [] := by
      unfold NoticeUnit.ok NoticeUnit.headOk at h
      rw [ht] at h
      simp only [Bool.and_eq_true, List.isEmpty_iff] at h
      exact h.1
    have : (appendNotice k b p s).notices.closed = false ∧ (∃ n, (appendNotice k b p s).notices.queue = [n] ∧
        n.sending = true) ∧ ∃ r, (appendNotice k b p s).notices.transmitter = .sending r := by
      unfold appendNotice beginFrame
      simp only [ht, hq, List.nil_append, hk, if_false, hc]
      split <;> exact ⟨rfl, ⟨_, rfl, rfl⟩, ⟨_, rfl⟩⟩
    obtain ⟨c, ⟨n, q, sn⟩, ⟨r, tr⟩⟩ := this
    simp [NoticeUnit.ok, NoticeUnit.headOk, NoticeUnit.queueOk, c, q, tr, sn, Notice.waitingFull]
  | sending r =>
    have e : appendNotice k b p s = { s with notices := { s.notices with
        queue := s.notices.queue ++ [{ kind := k, bay := b, repeats := 1, payload := p, sending := false }] } } := by
      unfold appendNotice beginFrame
      simp only [ht]
    rw [e]
    have hk' : (k == NoticeKind.queueFull) = false := beq_eq_false_iff_ne.2 hk
    unfold NoticeUnit.ok NoticeUnit.headOk NoticeUnit.queueOk at h ⊢
    simp only [ht, hc] at h ⊢
    cases hq : s.notices.queue with
    | nil => rw [hq] at h; simp at h
    | cons n ns =>
      rw [hq] at h hl
      simp only [Bool.false_eq_true, if_false, Bool.and_eq_true, decide_eq_true_eq, List.length_cons,
        List.all_cons] at h hl
      simp only [List.cons_append, Bool.false_eq_true, if_false, Bool.and_eq_true, decide_eq_true_eq, List.length_cons,
        List.length_append, List.length_nil, List.all_cons, List.all_append, List.all_nil]
      refine ⟨⟨h.1.1, h.1.2, by simp⟩, ⟨by omega, h.2.2.1, h.2.2.2, ?_, trivial⟩⟩
      simp [Notice.waitingFull, hk']

/-- The posting that finds 15 notices held: QUEUE_FULL takes the sixteenth place and the queue is closed. -/
theorem appendFull_ok (s : State) (h : s.notices.ok = true) (hc : s.notices.closed = false)
    (hl : ¬ s.notices.queue.length < 15) :
    (appendNotice .queueFull none [] { s with notices := { s.notices with closed := true } }).notices.ok = true := by
  cases ht : s.notices.transmitter with
  | idle =>
    unfold NoticeUnit.ok NoticeUnit.headOk at h
    rw [ht] at h
    simp only [Bool.and_eq_true, List.isEmpty_iff] at h
    rw [h.1] at hl
    simp at hl
  | sending r =>
    have e : appendNotice .queueFull none [] { s with notices := { s.notices with closed := true } } =
        { s with notices := { s.notices with
            closed := true,
            queue := s.notices.queue ++
              [{ kind := .queueFull, bay := none, repeats := 1, payload := [], sending := false }] } } := by
      unfold appendNotice beginFrame
      simp only [ht]
    rw [e]
    unfold NoticeUnit.ok NoticeUnit.headOk NoticeUnit.queueOk at h ⊢
    simp only [ht, hc] at h ⊢
    cases hq : s.notices.queue with
    | nil => rw [hq] at h; simp at h
    | cons n ns =>
      rw [hq] at h hl
      simp only [Bool.false_eq_true, if_false, Bool.and_eq_true, decide_eq_true_eq, List.length_cons,
        List.all_cons] at h hl
      have hd : ((n :: ns) ++ [({ kind := .queueFull, bay := none, repeats := 1, payload := [], sending := false } : Notice)]).dropLast
          = n :: ns := List.dropLast_concat
      have hg : ((n :: ns) ++ [({ kind := .queueFull, bay := none, repeats := 1, payload := [], sending := false } : Notice)]).getLast?
          = some { kind := .queueFull, bay := none, repeats := 1, payload := [], sending := false } :=
        List.getLast?_concat ..
      simp only [if_true, Bool.and_eq_true, decide_eq_true_eq, hd, lastWaits, hg, List.all_cons, List.length_append, List.length_cons,
        List.length_nil]
      refine ⟨?_, ⟨⟨by omega, h.2.2.1, h.2.2.2⟩, rfl⟩⟩
      simp only [List.cons_append, Bool.and_eq_true, List.all_append, List.all_cons, List.all_nil]
      exact ⟨h.1.1, h.1.2, by simp⟩

/-- R157 to R159 keep the queue's bound. No block posts QUEUE_FULL: the unit makes it. -/
theorem post_ok (k : NoticeKind) (b : Option Bay) (p : List Byte) (s : State) (hk : k ≠ .queueFull)
    (h : s.notices.ok = true) : (post k b p s).notices.ok = true := by
  unfold post
  split
  · exact h
  · split
    · exact NoticeUnit.ok_congr (bumpFirst_key _ _) rfl Iff.rfl h
    · split
      · exact NoticeUnit.ok_congr (bumpFirst_key _ _) rfl Iff.rfl h
      · rename_i hc
        split
        · rename_i hl
          exact appendNotice_ok k b p s h hk (by simpa using hc) hl
        · rename_i hl
          exact appendFull_ok s h (by simpa using hc) hl

/-- R162 keeps the queue's bound. -/
theorem frameSent_ok (s : State) (h : s.notices.ok = true) : (frameSent s).notices.ok = true := by
  unfold frameSent
  split
  · exact h
  · rename_i r ht
    unfold NoticeUnit.ok NoticeUnit.headOk NoticeUnit.queueOk at h
    rw [ht] at h
    cases hq : s.notices.queue with
    | nil => rw [hq] at h; simp at h
    | cons n ns =>
      rw [hq] at h
      simp only [Bool.and_eq_true] at h
      cases ns with
      | nil =>
        have hc : s.notices.closed = false := by
          cases hc : s.notices.closed with
          | false => rfl
          | true =>
            rw [hc] at h
            simp [lastWaits, Notice.waitingFull, h.1.1] at h
        simp [beginFrame, NoticeUnit.ok, NoticeUnit.headOk, NoticeUnit.queueOk, hc]
      | cons m ms =>
        have hm : m.sending = false ∧ ∀ x ∈ ms, x.sending = false := by simpa using h.1.2
        have goal : ∀ (c : Bool) (pl : List Byte),
            c = (if m.kind = .queueFull then false else s.notices.closed) →
            ∀ u : NoticeUnit, u.queue = { m with sending := true, payload := pl } :: ms → u.closed = c →
              (∃ r, u.transmitter = .sending r) → u.ok = true := by
          intro c pl ec u uq uc ⟨r', ut⟩
          unfold NoticeUnit.ok NoticeUnit.headOk NoticeUnit.queueOk
          rw [ut, uq, uc, ec]
          have hs : (ms.all fun x => !x.sending) = true := by
            simp only [List.all_eq_true]
            intro x hx
            simp [hm.2 x hx]
          simp only [Bool.and_eq_true, hs, and_true, true_and]
          by_cases hf : m.kind = .queueFull
          · have wf : m.waitingFull = true := by simp [Notice.waitingFull, hf, hm.1]
            simp only [hf, if_true, Bool.false_eq_true, if_false, Bool.and_eq_true, decide_eq_true_eq, List.all_cons]
            cases hc : s.notices.closed with
            | false =>
              rw [hc] at h
              simp [wf] at h
            | true =>
              rw [hc] at h
              cases ms with
              | nil => simp [Notice.waitingFull]
              | cons y ys => simp [wf] at h
          · simp only [hf, if_false]
            have wf : ∀ b pl', (Notice.waitingFull { m with sending := b, payload := pl' }) = false := by
              intro b pl'
              simp [Notice.waitingFull, hf]
            cases hc : s.notices.closed with
            | false =>
              rw [hc] at h
              simp only [Bool.false_eq_true, if_false, Bool.and_eq_true, decide_eq_true_eq, List.all_cons,
                List.length_cons] at h ⊢
              refine ⟨by omega, ?_, h.2.2.2.2⟩
              rw [wf]; rfl
            | true =>
              rw [hc] at h
              simp only [if_true, Bool.and_eq_true, decide_eq_true_eq, List.length_cons] at h ⊢
              cases ms with
              | nil =>
                simp [lastWaits, Notice.waitingFull, hf] at h
              | cons y ys =>
                refine ⟨⟨by simp at h ⊢; omega, ?_⟩, ?_⟩
                · have := h.2.1.2
                  simp only [List.dropLast_cons_cons, List.all_cons, Bool.and_eq_true] at this ⊢
                  exact ⟨by rw [wf]; rfl, this.2.2⟩
                · have := h.2.2
                  unfold lastWaits at this ⊢
                  simp only [List.getLast?_cons_cons] at this ⊢
                  exact this
        unfold beginFrame
        simp only [List.tail_cons]
        split
        · rename_i b hk hb
          exact goal _ _ rfl _ rfl (by simp [hk]) ⟨_, rfl⟩
        · exact goal _ m.payload rfl _ rfl rfl ⟨_, rfl⟩

end Sys2Proof.Machine
end

