-- ==== Sys2Proof/Laws/Rows.lean ====
section
/-! SUPPORT. How updates of a fixed row combine. -/

namespace Sys2Proof

/-- Two updates of one member are one. -/
theorem upd_upd {α : Type} {n : Nat} (v : Vector α n) (i : Fin n) (f g : α → α) :
    upd (upd v i f) i g = upd v i (fun x => g (f x)) := by
  have h : (v.set i (f v[i]))[i] = f v[i] := by simp
  unfold upd
  rw [h, Vector.set_set]

/-- An update is determined by what it makes of the member it reaches. -/
theorem upd_congr {α : Type} {n : Nat} {v : Vector α n} {i : Fin n} {f g : α → α} (h : f v[i] = g v[i]) :
    upd v i f = upd v i g := by
  unfold upd
  rw [h]

/-- An update that leaves its member as it is leaves the row. -/
theorem upd_same {α : Type} {n : Nat} {v : Vector α n} {i : Fin n} {f : α → α} (h : f v[i] = v[i]) : upd v i f = v := by
  unfold upd
  rw [h]
  exact Vector.set_getElem_self i.isLt

/-- Two rows whose members agree are one. -/
theorem row_ext {α : Type} {n : Nat} {v w : Vector α n} (h : ∀ i : Fin n, v[i] = w[i]) : v = w :=
  Vector.ext fun i hi => h ⟨i, hi⟩

namespace Machine

/-- An operation taken bay after bay, each time an update of the bay's own member of a row, updates the whole row. -/
theorem updAll_of_bays {α : Type} (v : Vector α 8) (f : Bay → α → α) :
    allBays.foldl (fun w b => upd w b (f b)) v = updAll v f := by
  apply row_ext
  intro i
  rw [updAll_get]
  fin_cases i <;> simp [allBays, upd]

end Machine
end Sys2Proof
end

