-- ==== Sys2Proof/Laws/Volume.lean ====
section
/-! SUPPORT. What a write-off, an addition to debt, an addition to carry, a fold and a batch's return do (R70, R77, R97,
R105, R112): the whole state where nothing passes the largest volume, and what is left unchanged in every case. -/

namespace Sys2Proof.Machine

@[simp] theorem writeOff_zero (b : Option Bay) (s : State) : writeOff 0 b s = s := rfl

/-- What a write-off leaves unchanged: everything but the header's total and dirty flag, and the notices. -/
theorem writeOff_rest (v : Nat) (b : Option Bay) (s : State) :
    (writeOff v b s).ctx = s.ctx ∧ (writeOff v b s).lines = s.lines ∧ (writeOff v b s).commits = s.commits ∧
      (writeOff v b s).marks = s.marks ∧ (writeOff v b s).proof = s.proof ∧ (writeOff v b s).link = s.link ∧
      (writeOff v b s).pool.pend = s.pool.pend ∧ (writeOff v b s).pool.batch = s.pool.batch ∧
      (writeOff v b s).pool.carry = s.pool.carry ∧ (writeOff v b s).registry.entries = s.registry.entries ∧
      (writeOff v b s).registry.header.sequence = s.registry.header.sequence ∧
      (writeOff v b s).registry.heldLookups = s.registry.heldLookups := by
  unfold writeOff
  split
  · exact ⟨rfl, rfl, rfl, rfl, rfl, rfl, rfl, rfl, rfl, rfl, rfl, rfl⟩
  · have h := onlyNotices_post .debtWrittenOff b
    unfold postWrittenOff
    refine ⟨(h _ _).ctx, (h _ _).lines, (h _ _).commits, (h _ _).marks, (h _ _).proof, (h _ _).link, (h _ _).poolPend,
      (h _ _).poolBatch, (h _ _).poolCarry, ?_, ?_, ?_⟩ <;> rw [(h _ _).registry] <;> rfl

/-- A write-off of what a sum passes 2^56 − 1 fl by (R105): nothing up to there, and the whole act above. -/
theorem writeOff_past (sum : Nat) (who : Option Bay) (s : State) :
    writeOff (sum - Config.volumeMax) who s =
      if sum ≤ 2 ^ 56 - 1 then s
      else
        let total := min (2 ^ 64 - 1) (s.registry.header.writtenOff + (sum - (2 ^ 56 - 1)))
        post .debtWrittenOff who (toLE 6 (min (sum - (2 ^ 56 - 1)) (2 ^ 48 - 1)) ++ toLE 6 (min total (2 ^ 48 - 1)))
          (s.modHeader fun h => { h with writtenOff := total, dirty := true }) := by
  unfold writeOff
  simp only [Nat.sub_eq_zero_iff_le]
  split <;> rename_i h
  · rw [if_pos (by exact h)]
  · rw [if_neg (by exact h)]; rfl

/-- An addition to debt, whatever the sum (R112). -/
theorem addDebt_eq (e : EntryIx) (v : Nat) (who : Option Bay) (s : State) :
    addDebt e v who s = writeOff (s.registry.entries[e].saved.debt + v - Config.volumeMax) who (s.modEntry e fun n =>
      { n with saved := { n.saved with debt := min (n.saved.debt + v) Config.volumeMax }, dirty := true }) := by
  exact congrArg (fun l => writeOff (s.registry.entries[e].saved.debt + v - Config.volumeMax) who
    { s with registry := { s.registry with entries := l } }) (upd_congr rfl)

/-- An addition to carry, whatever the sum (R70). -/
theorem addCarry_eq (b : Bay) (v : Nat) (s : State) :
    addCarry b v s = writeOff (s.pool.carry[b] + v - Config.volumeMax) (some b)
      (s.modPool fun p => { p with carry := upd p.carry b fun n => min (n + v) Config.volumeMax }) := by
  exact congrArg (fun l => writeOff (s.pool.carry[b] + v - Config.volumeMax) (some b)
    { s with pool := { s.pool with carry := l } }) (upd_congr rfl)

/-- An addition to debt that stays within the largest volume. -/
theorem addDebt_of_le {e : EntryIx} {v : Nat} {s : State} (b : Option Bay)
    (h : s.registry.entries[e].saved.debt + v ≤ Config.volumeMax) :
    addDebt e v b s = s.modEntry e fun n =>
      { n with saved := { n.saved with debt := s.registry.entries[e].saved.debt + v }, dirty := true } := by
  simp only [addDebt, Nat.sub_eq_zero_of_le h, Nat.min_eq_left h, writeOff_zero]

/-- An addition to carry that stays within the largest volume. -/
theorem addCarry_of_le {b : Bay} {v : Nat} {s : State} (h : s.pool.carry[b] + v ≤ Config.volumeMax) :
    addCarry b v s = s.modPool fun p => { p with carry := upd p.carry b fun n => n + v } := by
  simp only [addCarry, Nat.sub_eq_zero_of_le h, Nat.min_eq_left h, writeOff_zero, State.modPool]
  rw [upd_congr (f := fun _ => s.pool.carry[b] + v) (g := fun n => n + v) rfl]

/-- What an addition to carry leaves unchanged, and the carry it leaves (R70). -/
theorem addCarry_rest (b : Bay) (v : Nat) (s : State) :
    (addCarry b v s).ctx = s.ctx ∧ (addCarry b v s).lines = s.lines ∧ (addCarry b v s).commits = s.commits ∧
      (addCarry b v s).marks = s.marks ∧ (addCarry b v s).proof = s.proof ∧ (addCarry b v s).link = s.link ∧
      (addCarry b v s).pool.pend = s.pool.pend ∧ (addCarry b v s).pool.batch = s.pool.batch ∧
      (addCarry b v s).pool.carry = upd s.pool.carry b (fun n => min (n + v) Config.volumeMax) ∧
      (addCarry b v s).registry.entries = s.registry.entries := by
  simp only [addCarry]
  generalize s.pool.carry[b] + v - Config.volumeMax = n
  generalize Config.volumeMax = m
  obtain ⟨h1, h2, h3, h4, h5, h6, h7, h8, h9, h10, -, -⟩ := writeOff_rest n (some b)
    (s.modPool fun p => { p with carry := upd p.carry b fun _ => min (s.pool.carry[b] + v) m })
  exact ⟨h1, h2, h3, h4, h5, h6, h7, h8, h9.trans (upd_congr (f := fun _ => min (s.pool.carry[b] + v) m) rfl), h10⟩

/-- What an addition to debt leaves unchanged, and the entry it leaves (R112). -/
theorem addDebt_rest (e : EntryIx) (v : Nat) (b : Option Bay) (s : State) :
    (addDebt e v b s).ctx = s.ctx ∧ (addDebt e v b s).lines = s.lines ∧ (addDebt e v b s).commits = s.commits ∧
      (addDebt e v b s).marks = s.marks ∧ (addDebt e v b s).proof = s.proof ∧ (addDebt e v b s).link = s.link ∧
      (addDebt e v b s).pool.pend = s.pool.pend ∧ (addDebt e v b s).pool.batch = s.pool.batch ∧
      (addDebt e v b s).pool.carry = s.pool.carry ∧
      (addDebt e v b s).registry.entries = upd s.registry.entries e (fun n =>
        { n with saved := { n.saved with debt := min (n.saved.debt + v) Config.volumeMax }, dirty := true }) := by
  simp only [addDebt]
  generalize s.registry.entries[e].saved.debt + v - Config.volumeMax = k
  generalize Config.volumeMax = m
  obtain ⟨h1, h2, h3, h4, h5, h6, h7, h8, h9, h10, -, -⟩ := writeOff_rest k b
    (s.modEntry e fun n =>
      { n with saved := { n.saved with debt := min (s.registry.entries[e].saved.debt + v) m }, dirty := true })
  refine ⟨h1, h2, h3, h4, h5, h6, h7, h8, h9, h10.trans ?_⟩
  simp only [State.modEntry]
  apply upd_congr
  rfl

/-! ### Folding, and a batch's return -/

/-- A fold whose volume the entry's debt holds (R77). -/
theorem fold_of_le {b : Bay} {e : EntryIx} {s : State} (ho : s.ctx[b].owner = some e)
    (h : s.registry.entries[e].saved.debt + (s.pool.pend[b].total + s.pool.carry[b]) ≤ Config.volumeMax) :
    fold b s = (s.modEntry e fun n =>
      { n with saved := { n.saved with
          debt := s.registry.entries[e].saved.debt + (s.pool.pend[b].total + s.pool.carry[b]) }, dirty := true }).modPool
      fun p => { p.pendToFree b with carry := upd (p.pendToFree b).carry b fun _ => 0 } := by
  simp only [fold, State.foldVolume, ho]
  rw [addDebt_of_le (some b) h]

/-- What a fold leaves unchanged (R77). -/
theorem fold_rest (b : Bay) (s : State) :
    (fold b s).ctx = s.ctx ∧ (fold b s).lines = s.lines ∧ (fold b s).commits = s.commits ∧ (fold b s).marks = s.marks ∧
      (fold b s).proof = s.proof ∧ (fold b s).link = s.link ∧ (fold b s).pool.batch = s.pool.batch := by
  have pooled : ∀ (t : State) (f : DebitPool → DebitPool), (∀ p, (f p).batch = p.batch) →
      (t.ctx = s.ctx ∧ t.lines = s.lines ∧ t.commits = s.commits ∧ t.marks = s.marks ∧ t.proof = s.proof ∧
        t.link = s.link ∧ t.pool.batch = s.pool.batch) →
      (t.modPool f).ctx = s.ctx ∧ (t.modPool f).lines = s.lines ∧ (t.modPool f).commits = s.commits ∧
        (t.modPool f).marks = s.marks ∧ (t.modPool f).proof = s.proof ∧ (t.modPool f).link = s.link ∧
        (t.modPool f).pool.batch = s.pool.batch :=
    fun t f hf h => ⟨h.1, h.2.1, h.2.2.1, h.2.2.2.1, h.2.2.2.2.1, h.2.2.2.2.2.1, (hf _).trans h.2.2.2.2.2.2⟩
  unfold fold
  split
  · exact ⟨rfl, rfl, rfl, rfl, rfl, rfl, rfl⟩
  · rename_i e _
    obtain ⟨h1, h2, h3, h4, h5, h6, -, h8, -, -⟩ := addDebt_rest e (s.foldVolume b) (some b) s
    exact pooled _ _ (fun _ => rfl) ⟨h1, h2, h3, h4, h5, h6, h8⟩

/-- A batch's return whose carry holds (R97): the records, the carry and the residue go back, and the commit is IDLE. -/
theorem returnBatch_of_le {b : Bay} {s : State} (e : EntryIx)
    (h : s.pool.carry[b] + s.commits[b].batchCarry ≤ Config.volumeMax) :
    returnBatch b e s = ((s.modPool fun p => { p.batchToPend b with
        carry := upd (p.batchToPend b).carry b fun n => n + s.commits[b].batchCarry }).modEntry e fun n =>
      { n with saved := { n.saved with residue := n.saved.residue + s.commits[b].batchResidue } }).modCommit b
        CommitContext.settle := by
  have h' : (s.modPool fun p => p.batchToPend b).pool.carry[b] + s.commits[b].batchCarry ≤ Config.volumeMax := h
  simp only [returnBatch, addCarry_of_le h']
  rfl

/-- What a batch's return leaves unchanged, and the commit, the entry, the queues and the carry it leaves (R97). -/
theorem returnBatch_rest (b : Bay) (e : EntryIx) (s : State) :
    (returnBatch b e s).ctx = s.ctx ∧ (returnBatch b e s).lines = s.lines ∧ (returnBatch b e s).marks = s.marks ∧
      (returnBatch b e s).proof = s.proof ∧ (returnBatch b e s).link = s.link ∧
      (returnBatch b e s).commits = upd s.commits b CommitContext.settle ∧
      (returnBatch b e s).pool.pend = (s.pool.batchToPend b).pend ∧
      (returnBatch b e s).pool.batch = (s.pool.batchToPend b).batch ∧
      (returnBatch b e s).pool.carry = upd s.pool.carry b (fun n => min (n + s.commits[b].batchCarry) Config.volumeMax) ∧
      (returnBatch b e s).registry.entries = upd s.registry.entries e (fun n =>
        { n with saved := { n.saved with residue := n.saved.residue + s.commits[b].batchResidue } }) := by
  have settled : ∀ (t : State) (f : Entry → Entry) (g : CommitContext → CommitContext) (c : Vector Nat 8),
      (t.ctx = s.ctx ∧ t.lines = s.lines ∧ t.commits = s.commits ∧ t.marks = s.marks ∧ t.proof = s.proof ∧
        t.link = s.link ∧ t.pool.pend = (s.pool.batchToPend b).pend ∧ t.pool.batch = (s.pool.batchToPend b).batch ∧
        t.pool.carry = c ∧ t.registry.entries = s.registry.entries) →
      let u := (t.modEntry e f).modCommit b g
      u.ctx = s.ctx ∧ u.lines = s.lines ∧ u.marks = s.marks ∧ u.proof = s.proof ∧ u.link = s.link ∧
        u.commits = upd s.commits b g ∧ u.pool.pend = (s.pool.batchToPend b).pend ∧
        u.pool.batch = (s.pool.batchToPend b).batch ∧ u.pool.carry = c ∧ u.registry.entries = upd s.registry.entries e f := by
    intro t f g c h
    obtain ⟨h1, h2, h3, h4, h5, h6, h7, h8, h9, h10⟩ := h
    exact ⟨h1, h2, h4, h5, h6, congrArg (upd · b g) h3, h7, h8, h9, congrArg (upd · e f) h10⟩
  exact settled _ _ _ _ (addCarry_rest b s.commits[b].batchCarry (s.modPool fun p => p.batchToPend b))

end Sys2Proof.Machine
end

