-- ==== Sys2Proof/Laws/Admission.lean ====
section
/-! SUPPORT. What an arriving claim and a registry lookup do (R17, R28, R107 to R110). -/

namespace Sys2Proof.Machine

/-! ### Claims (R17) -/

/-- A claim that passes the screen for a bay that is not EMPTY joins the waiting set, and the arbiter runs. -/
theorem claimArrives_of_passes {b : Bay} {c : Claim} {s : State} (h : s.ctx[b].state ≠ .empty)
    (hs : screenPasses s.ctx[b] c = true) :
    claimArrives b c s = (arbitrate b (s.modLine b fun u => { u with waiting := u.waiting.join c }), none) := by
  unfold claimArrives
  rw [if_neg h, if_pos hs]

/-- Admission's PEEK of a whole page (R28, R32). -/
theorem admissionClaim_peek {b : Bay} {page : Nat} {s : State} (h : s.ctx[b].state ≠ .empty) (hp : page < 32) :
    admissionClaim b .peek page 32 [] s = arbitrate b (s.modLine b fun u => { u with waiting := { u.waiting with
      admission := some { claimant := .admission, command := .peek, page := page, offset := 0, length := 32,
                          data := [] } } }) := by
  unfold admissionClaim
  rw [claimArrives_of_passes h (by simp [screenPasses, Claim.inRange, hp])]
  rfl

/-! ### Lookup (R107) -/

/-- What a lookup leaves unchanged. -/
theorem lookup_rest (b : Bay) (k : LookupKey) (s : State) :
    (lookup b k s).1.ctx = s.ctx ∧ (lookup b k s).1.lines = s.lines ∧ (lookup b k s).1.commits = s.commits ∧
      (lookup b k s).1.pool.carry = s.pool.carry ∧
      (lookup b k s).1.registry.header.sequence = s.registry.header.sequence := by
  unfold lookup
  split
  · split <;> exact ⟨rfl, rfl, rfl, rfl, rfl⟩
  · split
    · exact ⟨rfl, rfl, rfl, rfl, rfl⟩
    · split
      · rename_i e _
        obtain ⟨h1, h2, h3, -, -, -, -, -, h9, -, h11, -⟩ := writeOff_rest s.registry.entries[e].saved.volume (some b) s
        exact ⟨h1, h2, h3, h9, h11⟩
      · exact ⟨rfl, rfl, rfl, rfl, rfl⟩

theorem createEntry_key (e : EntryIx) (k : LookupKey) (s : State) :
    (createEntry e k s).registry.entries[e].saved.valid = true ∧
      (createEntry e k s).registry.entries[e].saved.serial = k.serial ∧
      (createEntry e k s).registry.entries[e].saved.capacity = k.capacity := by
  simp [createEntry, State.modEntry]

/-- The entry a lookup answers with is valid, holds the serial, and has the cartridge's capacity (R107, R110). -/
theorem lookup_entry {b : Bay} {k : LookupKey} {s : State} {e : EntryIx}
    (h : (lookup b k s).2 = .found e ∨ (lookup b k s).2 = .created e) :
    (lookup b k s).1.registry.entries[e].saved.valid = true ∧
      (lookup b k s).1.registry.entries[e].saved.serial = k.serial ∧
      (lookup b k s).1.registry.entries[e].saved.capacity = k.capacity := by
  unfold lookup at h ⊢
  cases hf : s.registry.find k.serial with
  | some f =>
    have hp := List.find?_some hf
    simp only [Bool.and_eq_true, beq_iff_eq] at hp
    by_cases hn : s.registry.entries[f].inBay = none
    · simp only [hf, hn, if_true] at h ⊢
      simp only [LookupAnswer.found.injEq, reduceCtorEq, or_false] at h
      subst h
      simp only [State.modEntry, upd_self]
      exact ⟨hp.1, hp.2, trivial⟩
    · simp only [hf, hn, if_false, reduceCtorEq, or_self] at h
  | none =>
    simp only [hf] at h ⊢
    cases hu : s.registry.unused with
    | some f =>
      simp only [hu, reduceCtorEq, LookupAnswer.created.injEq, false_or] at h ⊢
      subst h
      exact createEntry_key f k s
    | none =>
      simp only [hu] at h ⊢
      cases hv : s.evictionChoice with
      | some f =>
        simp only [hv, reduceCtorEq, LookupAnswer.created.injEq, false_or] at h ⊢
        subst h
        exact createEntry_key f k _
      | none => simp [hv] at h

end Sys2Proof.Machine
end

