-- ==== Sys2Proof/Laws/Pool.lean ====
section
/-! SUPPORT. Every operation of the debit pool keeps its partition (R64): each record in exactly one queue. -/

namespace Sys2Proof.Machine

/-! ### Chains -/

theorem linked_congr {rec rec' : Vector DebitRecord 64} :
    ∀ (l : List RecordIx) (h : Option RecordIx), (∀ r ∈ l, rec'[r].link = rec[r].link) →
      (linked rec' l h ↔ linked rec l h)
  | [], _, _ => Iff.rfl
  | r :: rs, h, e => by
    have e1 := e r (by simp)
    have ih := linked_congr rs rec[r].link (fun x hx => e x (by simp [hx]))
    simp only [linked, e1, ih]

theorem linked_head {rec : Vector DebitRecord 64} {l : List RecordIx} {h : Option RecordIx} (w : linked rec l h) :
    h = l.head? := by
  cases l with
  | nil => exact w
  | cons r rs => exact w.1

theorem chainVolume_congr {rec rec' : Vector DebitRecord 64} (l : List RecordIx)
    (h : ∀ r ∈ l, rec'[r].volume = rec[r].volume) : chainVolume rec' l = chainVolume rec l := by
  unfold chainVolume
  rw [List.map_congr_left h]

theorem Queue.Lists.congr {rec rec' : Vector DebitRecord 64} {q : Queue} {l : List RecordIx} (w : q.Lists rec l)
    (h : ∀ r ∈ l, rec'[r].link = rec[r].link ∧ rec'[r].volume = rec[r].volume) : q.Lists rec' l :=
  { chain := (linked_congr l q.head fun r hr => (h r hr).1).2 w.chain
    tail := w.tail
    count := w.count
    total := by rw [w.total, chainVolume_congr l fun r hr => (h r hr).2] }

theorem Queue.Lists.empty (rec : Vector DebitRecord 64) : Queue.empty.Lists rec [] :=
  { chain := rfl, tail := rfl, count := rfl, total := rfl }

theorem relink_volume (rec : Vector DebitRecord 64) (o n : Option RecordIx) (r : RecordIx) :
    (relink rec o n)[r].volume = rec[r].volume := by
  cases o with
  | none => rfl
  | some x =>
    by_cases h : r = x
    · subst h; simp [relink]
    · simp [relink, upd_ne _ _ _ _ h]

theorem relink_swath (rec : Vector DebitRecord 64) (o n : Option RecordIx) (r : RecordIx) :
    (relink rec o n)[r].swath = rec[r].swath := by
  cases o with
  | none => rfl
  | some x =>
    by_cases h : r = x
    · subst h; simp [relink]
    · simp [relink, upd_ne _ _ _ _ h]

theorem relink_link_ne (rec : Vector DebitRecord 64) (o n : Option RecordIx) (r : RecordIx) (h : o ≠ some r) :
    (relink rec o n)[r].link = rec[r].link := by
  cases o with
  | none => rfl
  | some x =>
    have h' : r ≠ x := fun e => h (by rw [e])
    simp [relink, upd_ne _ _ _ _ h']

/-- The tail of the front chain linked to the head of the back chain makes one chain of both. -/
theorem linked_join (rec : Vector DebitRecord 64) (k : RecordIx) (back : List RecordIx) :
    ∀ (front : List RecordIx) (h : Option RecordIx), front ≠ [] → linked rec front h → linked rec (k :: back) (some k) →
      (front ++ k :: back).Nodup → linked (relink rec front.getLast? (some k)) (front ++ k :: back) h
  | [], _, ne, _, _, _ => absurd rfl ne
  | [r], h, _, w, wb, nd => by
    have hr : ∀ x ∈ k :: back, r ≠ x := by
      intro x hx e
      simp only [List.singleton_append] at nd
      exact (List.nodup_cons.1 nd).1 (e ▸ hx)
    refine ⟨w.1, ?_⟩
    have e1 : (relink rec (some r) (some k))[r].link = some k := by simp [relink]
    simp only [List.getLast?_singleton, e1]
    exact (linked_congr (k :: back) _ fun x hx => relink_link_ne _ _ _ _ (fun e => hr x hx (Option.some.inj e))).2 wb
  | r :: s :: rest, h, _, w, wb, nd => by
    have nd' : (s :: rest ++ k :: back).Nodup := (List.nodup_cons.1 nd).2
    have hr : r ∉ s :: rest ++ k :: back := (List.nodup_cons.1 nd).1
    have ih := linked_join rec k back (s :: rest) rec[r].link (by simp) w.2 wb nd'
    refine ⟨w.1, ?_⟩
    have e1 : (r :: s :: rest).getLast? = (s :: rest).getLast? := by simp [List.getLast?_cons_cons]
    have e2 : (relink rec (s :: rest).getLast? (some k))[r].link = rec[r].link := by
      refine relink_link_ne _ _ _ _ (fun e => hr ?_)
      exact List.mem_append_left _ (List.mem_of_getLast? e)
    rw [e1, e2]
    exact ih

/-! ### Diversions (R68) -/

/-- A diversion joins the two chains, and leaves every chain that shares no record with the front one. -/
theorem joinQueues_lists {rec : Vector DebitRecord 64} {f b : Queue} {lf lb : List RecordIx} (wf : f.Lists rec lf)
    (wb : b.Lists rec lb) (nd : (lf ++ lb).Nodup) :
    (joinQueues f b rec).1.Lists (joinQueues f b rec).2 (lf ++ lb) ∧
    (∀ (q : Queue) (l : List RecordIx), q.Lists rec l → (∀ r ∈ l, r ∉ lf) → q.Lists (joinQueues f b rec).2 l) ∧
    (∀ r : RecordIx, (joinQueues f b rec).2[r].volume = rec[r].volume ∧
      (joinQueues f b rec).2[r].swath = rec[r].swath) := by
  have hf := linked_head wf.chain
  have hb := linked_head wb.chain
  cases lf with
  | nil =>
    have e : joinQueues f b rec = (b, rec) := by
      simp only [List.head?_nil] at hf
      unfold joinQueues
      simp [hf]
    rw [e]
    exact ⟨wb, fun q l w _ => w, fun r => ⟨rfl, rfl⟩⟩
  | cons x xs =>
    cases lb with
    | nil =>
      have e : joinQueues f b rec = (f, rec) := by
        simp only [List.head?_nil, List.head?_cons] at hf hb
        unfold joinQueues
        simp [hf, hb]
      rw [e, List.append_nil]
      exact ⟨wf, fun q l w _ => w, fun r => ⟨rfl, rfl⟩⟩
    | cons k ks =>
      simp only [List.head?_cons] at hf hb
      have e : joinQueues f b rec =
          ({ head := some x, tail := b.tail, count := f.count + b.count, total := f.total + b.total },
           relink rec f.tail (some k)) := by
        unfold joinQueues
        simp [hf, hb]
      rw [e]
      have vol : ∀ r : RecordIx, (relink rec f.tail (some k))[r].volume = rec[r].volume := relink_volume rec _ _
      refine ⟨⟨?_, ?_, ?_, ?_⟩, ?_, ?_⟩
      · have wb' := wb.chain
        rw [hb] at wb'
        have := linked_join rec k ks (x :: xs) (some x) (by simp) (hf ▸ wf.chain) wb' nd
        rw [← wf.tail] at this
        exact this
      · show b.tail = _
        obtain ⟨y, hy⟩ : ∃ y, (k :: ks).getLast? = some y := ⟨_, List.getLast?_eq_some_getLast (by simp)⟩
        rw [wb.tail, List.getLast?_append, hy]
        rfl
      · simp [wf.count, wb.count]
        omega
      · simp only [wf.total, wb.total]
        rw [chainVolume_congr _ (fun r _ => vol r)]
        simp only [chainVolume, List.map_append, List.sum_append]
      · intro q l w d
        refine w.congr fun r hr => ⟨relink_link_ne _ _ _ _ fun e => d r hr ?_, vol r⟩
        rw [wf.tail] at e
        exact List.mem_of_getLast? e
      · exact fun r => ⟨vol r, relink_swath rec _ _ r⟩

/-- Clearing a chain changes no link, and sets the volume and the swath number of its records to 0. -/
theorem clearChain_spec : ∀ (l : List RecordIx) (rec : Vector DebitRecord 64) (h : Option RecordIx), linked rec l h →
    ∀ r : RecordIx, (clearChain l.length h rec)[r].link = rec[r].link ∧
      (r ∈ l → (clearChain l.length h rec)[r].volume = 0 ∧ (clearChain l.length h rec)[r].swath = 0) ∧
      (r ∉ l → (clearChain l.length h rec)[r].volume = rec[r].volume ∧
        (clearChain l.length h rec)[r].swath = rec[r].swath) ∧
      (rec[r].volume = 0 ∧ rec[r].swath = 0 →
        (clearChain l.length h rec)[r].volume = 0 ∧ (clearChain l.length h rec)[r].swath = 0)
  | [], rec, h, _ => fun r => by simp [clearChain]
  | x :: xs, rec, h, w => by
    intro r
    obtain ⟨hx, wx⟩ := w
    subst hx
    have lk : ∀ y : RecordIx,
        (upd rec x fun d : DebitRecord => { d with swath := 0, volume := 0 })[y].link = rec[y].link := by
      intro y
      by_cases e : y = x
      · subst e; simp
      · simp [upd_ne _ _ _ _ e]
    have w' : linked (upd rec x fun d => { d with swath := 0, volume := 0 }) xs rec[x].link :=
      (linked_congr xs _ fun y _ => lk y).2 wx
    have ih := clearChain_spec xs _ _ w' r
    simp only [List.length_cons, clearChain]
    obtain ⟨i1, i2, i3, i4⟩ := ih
    refine ⟨i1.trans (lk r), ?_, ?_, ?_⟩
    · intro hr
      by_cases e : r = x
      · subst e
        exact i4 (by simp)
      · exact i2 (by simpa [e] using hr)
    · intro hr
      simp only [List.mem_cons, not_or] at hr
      have := i3 hr.2
      rw [upd_ne _ _ _ _ hr.1] at this
      exact this
    · intro hz
      refine i4 ?_
      by_cases e : r = x
      · subst e; simp
      · rw [upd_ne _ _ _ _ e]; exact hz

/-! ### Counting occurrences -/

theorem sum_update (g : Bay → List RecordIx) (b : Bay) (l : List RecordIx) (r : RecordIx) :
    (∑ c : Bay, (Function.update g b l c).count r) + (g b).count r = (∑ c : Bay, (g c).count r) + l.count r := by
  have h1 := Finset.add_sum_erase Finset.univ (fun c => (g c).count r) (Finset.mem_univ b)
  have h2 := Finset.add_sum_erase Finset.univ (fun c => (Function.update g b l c).count r) (Finset.mem_univ b)
  have h3 : ∑ c ∈ Finset.univ.erase b, (Function.update g b l c).count r =
      ∑ c ∈ Finset.univ.erase b, (g c).count r :=
    Finset.sum_congr rfl fun c hc => by rw [Function.update_of_ne (Finset.ne_of_mem_erase hc)]
  simp only [Function.update_self] at h2
  omega

theorem le_sum (g : Bay → List RecordIx) (b : Bay) (r : RecordIx) : (g b).count r ≤ ∑ c : Bay, (g c).count r :=
  Finset.single_le_sum (f := fun c => (g c).count r) (fun _ _ => Nat.zero_le _) (Finset.mem_univ b)

theorem two_le_sum (g : Bay → List RecordIx) {b c : Bay} (h : b ≠ c) (r : RecordIx) :
    (g b).count r + (g c).count r ≤ ∑ d : Bay, (g d).count r := by
  have h1 := Finset.add_sum_erase Finset.univ (fun d => (g d).count r) (Finset.mem_univ b)
  have h2 : (g c).count r ≤ ∑ d ∈ Finset.univ.erase b, (g d).count r :=
    Finset.single_le_sum (f := fun d => (g d).count r) (fun _ _ => Nat.zero_le _)
      (Finset.mem_erase.2 ⟨Ne.symm h, Finset.mem_univ c⟩)
  omega

theorem nodup_of_counts {l : List RecordIx} (h : ∀ r, l.count r ≤ 1) : l.Nodup :=
  List.nodup_iff_count_le_one.2 h

/-- The witness of a partition: the seventeen chains. -/
structure Chains (p : DebitPool) (f : List RecordIx) (pe ba : Bay → List RecordIx) : Prop where
  free : p.free.Lists p.records f
  pend : ∀ b : Bay, p.pend[b].Lists p.records (pe b)
  batch : ∀ b : Bay, p.batch[b].Lists p.records (ba b)
  once : ∀ r : RecordIx, occurrences f pe ba r = 1
  clear : ∀ r ∈ f, p.records[r].volume = 0 ∧ p.records[r].swath = 0

theorem DebitPool.Partitioned.chains {p : DebitPool} (h : p.Partitioned) : ∃ f pe ba, Chains p f pe ba := by
  obtain ⟨f, pe, ba, h1, h2, h3, h4, h5⟩ := h
  exact ⟨f, pe, ba, h1, h2, h3, h4, h5⟩

theorem Chains.partitioned {p : DebitPool} {f : List RecordIx} {pe ba : Bay → List RecordIx} (h : Chains p f pe ba) :
    p.Partitioned := ⟨f, pe, ba, h.free, h.pend, h.batch, h.once, h.clear⟩

section
variable {p : DebitPool} {f : List RecordIx} {pe ba : Bay → List RecordIx}

theorem Chains.counts (h : Chains p f pe ba) (b c : Bay) (r : RecordIx) :
    f.count r + (pe b).count r + (ba c).count r ≤ 1 := by
  have h1 := h.once r
  have h2 := le_sum pe b r
  have h3 := le_sum ba c r
  unfold occurrences at h1
  omega

theorem Chains.pend_pend (h : Chains p f pe ba) {b c : Bay} (ne : b ≠ c) (r : RecordIx) :
    (pe b).count r + (pe c).count r ≤ 1 := by
  have h1 := h.once r
  have h2 := two_le_sum pe ne r
  unfold occurrences at h1
  omega

theorem Chains.batch_batch (h : Chains p f pe ba) {b c : Bay} (ne : b ≠ c) (r : RecordIx) :
    (ba b).count r + (ba c).count r ≤ 1 := by
  have h1 := h.once r
  have h2 := two_le_sum ba ne r
  unfold occurrences at h1
  omega

end

theorem not_mem_of_count {l m : List RecordIx} (h : ∀ r, l.count r + m.count r ≤ 1) : ∀ r ∈ l, r ∉ m := by
  intro r hl hm
  have h1 := List.count_pos_iff.2 hl
  have h2 := List.count_pos_iff.2 hm
  have := h r
  omega

theorem nodup_append_of_counts {l m : List RecordIx} (h : ∀ r, l.count r + m.count r ≤ 1) : (l ++ m).Nodup :=
  nodup_of_counts fun r => by rw [List.count_append]; exact h r

/-! ### The four diversions (R69) -/

theorem partitioned_pendToBatch (b : Bay) (p : DebitPool) (h : p.Partitioned) : (p.pendToBatch b).Partitioned := by
  obtain ⟨f, pe, ba, w⟩ := h.chains
  have nd : (ba b ++ pe b).Nodup := nodup_append_of_counts fun r => by have := w.counts b b r; omega
  obtain ⟨j1, j2, j3⟩ := joinQueues_lists (w.batch b) (w.pend b) nd
  refine Chains.partitioned (f := f) (pe := Function.update pe b []) (ba := Function.update ba b (ba b ++ pe b))
    ⟨?_, ?_, ?_, ?_, ?_⟩
  · exact j2 _ _ w.free (not_mem_of_count fun r => by have := w.counts b b r; omega)
  · intro c
    simp only [DebitPool.pendToBatch]
    by_cases e : c = b
    · subst e; simp only [upd_self, Function.update_self]; exact Queue.Lists.empty _
    · rw [upd_ne _ _ _ _ e, Function.update_of_ne e]
      exact j2 _ _ (w.pend c) (not_mem_of_count fun r => by have := w.counts c b r; omega)
  · intro c
    simp only [DebitPool.pendToBatch]
    by_cases e : c = b
    · subst e; simp only [upd_self, Function.update_self]; exact j1
    · rw [upd_ne _ _ _ _ e, Function.update_of_ne e]
      exact j2 _ _ (w.batch c) (not_mem_of_count fun r => by have := w.batch_batch e r; omega)
  · intro r
    have h1 := w.once r
    have h2 := sum_update pe b [] r
    have h3 := sum_update ba b (ba b ++ pe b) r
    have h4 := le_sum pe b r
    rw [List.count_append] at h3
    simp only [List.count_nil] at h2
    unfold occurrences at h1 ⊢
    omega
  · intro r hr
    have := w.clear r hr
    exact ⟨(j3 r).1.trans this.1, (j3 r).2.trans this.2⟩

theorem partitioned_batchToPend (b : Bay) (p : DebitPool) (h : p.Partitioned) : (p.batchToPend b).Partitioned := by
  obtain ⟨f, pe, ba, w⟩ := h.chains
  have nd : (ba b ++ pe b).Nodup := nodup_append_of_counts fun r => by have := w.counts b b r; omega
  obtain ⟨j1, j2, j3⟩ := joinQueues_lists (w.batch b) (w.pend b) nd
  refine Chains.partitioned (f := f) (pe := Function.update pe b (ba b ++ pe b)) (ba := Function.update ba b [])
    ⟨?_, ?_, ?_, ?_, ?_⟩
  · exact j2 _ _ w.free (not_mem_of_count fun r => by have := w.counts b b r; omega)
  · intro c
    simp only [DebitPool.batchToPend]
    by_cases e : c = b
    · subst e; simp only [upd_self, Function.update_self]; exact j1
    · rw [upd_ne _ _ _ _ e, Function.update_of_ne e]
      exact j2 _ _ (w.pend c) (not_mem_of_count fun r => by have := w.counts c b r; omega)
  · intro c
    simp only [DebitPool.batchToPend]
    by_cases e : c = b
    · subst e; simp only [upd_self, Function.update_self]; exact Queue.Lists.empty _
    · rw [upd_ne _ _ _ _ e, Function.update_of_ne e]
      exact j2 _ _ (w.batch c) (not_mem_of_count fun r => by have := w.batch_batch e r; omega)
  · intro r
    have h1 := w.once r
    have h2 := sum_update pe b (ba b ++ pe b) r
    have h3 := sum_update ba b [] r
    have h4 := le_sum ba b r
    rw [List.count_append] at h2
    simp only [List.count_nil] at h3
    unfold occurrences at h1 ⊢
    omega
  · intro r hr
    have := w.clear r hr
    exact ⟨(j3 r).1.trans this.1, (j3 r).2.trans this.2⟩

/-- A queue's chain released onto FREE: FREE's chain grows by it, every other chain stands. -/
theorem release_spec {p : DebitPool} {f : List RecordIx} {pe ba : Bay → List RecordIx} (w : Chains p f pe ba)
    {q : Queue} {l : List RecordIx} (wq : q.Lists p.records l) (d : ∀ r, f.count r + l.count r ≤ 1) :
    (p.release q).free.Lists (p.release q).records (f ++ l) ∧
    (∀ (q' : Queue) (l' : List RecordIx), q'.Lists p.records l' → (∀ r ∈ l', r ∉ f) → (∀ r ∈ l', r ∉ l) →
      q'.Lists (p.release q).records l') ∧
    (∀ r ∈ f ++ l, (p.release q).records[r].volume = 0 ∧ (p.release q).records[r].swath = 0) ∧
    (p.release q).pend = p.pend ∧ (p.release q).batch = p.batch := by
  have cs := clearChain_spec l p.records q.head wq.chain
  rw [← wq.count] at cs
  have wf' : p.free.Lists (clearChain q.count q.head p.records) f :=
    w.free.congr fun r hr => ⟨(cs r).1, by
      rw [((cs r).2.2.2 (w.clear r hr)).1, (w.clear r hr).1]⟩
  have wq' : Queue.Lists (clearChain q.count q.head p.records) { q with total := 0 } l :=
    { chain := (linked_congr l q.head fun r _ => (cs r).1).2 wq.chain
      tail := wq.tail
      count := wq.count
      total := by
        have : (l.map fun r => (clearChain q.count q.head p.records)[r].volume) = l.map fun _ => 0 :=
          List.map_congr_left fun r hr => ((cs r).2.1 hr).1
        unfold chainVolume
        rw [this]; simp }
  obtain ⟨j1, j2, j3⟩ := joinQueues_lists wf' wq' (nodup_append_of_counts d)
  refine ⟨j1, ?_, ?_, rfl, rfl⟩
  · intro q' l' w' h1 h2
    refine j2 q' l' (w'.congr fun r hr => ⟨(cs r).1, ((cs r).2.2.1 (h2 r hr)).1⟩) h1
  · intro r hr
    have hz : (clearChain q.count q.head p.records)[r].volume = 0 ∧ (clearChain q.count q.head p.records)[r].swath = 0 := by
      rcases List.mem_append.1 hr with hf | hl
      · exact (cs r).2.2.2 (w.clear r hf)
      · exact (cs r).2.1 hl
    exact ⟨(j3 r).1.trans hz.1, (j3 r).2.trans hz.2⟩

theorem partitioned_batchToFree (b : Bay) (p : DebitPool) (h : p.Partitioned) : (p.batchToFree b).Partitioned := by
  obtain ⟨f, pe, ba, w⟩ := h.chains
  obtain ⟨r1, r2, r3, r4, r5⟩ := release_spec w (w.batch b) (fun r => by have := w.counts b b r; omega)
  refine Chains.partitioned (f := f ++ ba b) (pe := pe) (ba := Function.update ba b []) ⟨r1, ?_, ?_, ?_, r3⟩
  · intro c
    have e : (p.batchToFree b).pend = p.pend := r4
    rw [e]
    exact r2 _ _ (w.pend c) (not_mem_of_count fun r => by have := w.counts c b r; omega)
      (not_mem_of_count fun r => by have := w.counts c b r; omega)
  · intro c
    have e0 : (p.batchToFree b).batch = upd p.batch b fun _ => Queue.empty := by
      simp only [DebitPool.batchToFree, r5]
    rw [e0]
    by_cases e : c = b
    · subst e; simp only [upd_self, Function.update_self]; exact Queue.Lists.empty _
    · rw [upd_ne _ _ _ _ e, Function.update_of_ne e]
      exact r2 _ _ (w.batch c) (not_mem_of_count fun r => by have := w.counts b c r; omega)
        (not_mem_of_count fun r => by have := w.batch_batch e r; omega)
  · intro r
    have h1 := w.once r
    have h3 := sum_update ba b [] r
    have h4 := le_sum ba b r
    simp only [List.count_nil] at h3
    unfold occurrences at h1 ⊢
    rw [List.count_append]
    omega

theorem partitioned_pendToFree (b : Bay) (p : DebitPool) (h : p.Partitioned) : (p.pendToFree b).Partitioned := by
  obtain ⟨f, pe, ba, w⟩ := h.chains
  obtain ⟨r1, r2, r3, r4, r5⟩ := release_spec w (w.pend b) (fun r => by have := w.counts b b r; omega)
  refine Chains.partitioned (f := f ++ pe b) (pe := Function.update pe b []) (ba := ba) ⟨r1, ?_, ?_, ?_, r3⟩
  · intro c
    have e0 : (p.pendToFree b).pend = upd p.pend b fun _ => Queue.empty := by
      simp only [DebitPool.pendToFree, r4]
    rw [e0]
    by_cases e : c = b
    · subst e; simp only [upd_self, Function.update_self]; exact Queue.Lists.empty _
    · rw [upd_ne _ _ _ _ e, Function.update_of_ne e]
      exact r2 _ _ (w.pend c) (not_mem_of_count fun r => by have := w.counts c b r; omega)
        (not_mem_of_count fun r => by have := w.pend_pend e r; omega)
  · intro c
    have e : (p.pendToFree b).batch = p.batch := r5
    rw [e]
    exact r2 _ _ (w.batch c) (not_mem_of_count fun r => by have := w.counts b c r; omega)
      (not_mem_of_count fun r => by have := w.counts b c r; omega)
  · intro r
    have h1 := w.once r
    have h3 := sum_update pe b [] r
    have h4 := le_sum pe b r
    simp only [List.count_nil] at h3
    unfold occurrences at h1 ⊢
    rw [List.count_append]
    omega

/-! ### Take-free and push-tail (R66, R67, R73) -/

theorem partitioned_place (b : Bay) (swath : BitVec 16) (volume : Nat) (p p' : DebitPool) (r : RecordIx)
    (h : p.Partitioned) (ht : p.takeFree = some (r, p')) : ((p'.fill r swath volume).pushTail b r).Partitioned := by
  obtain ⟨f, pe, ba, w⟩ := h.chains
  have hh := linked_head w.free.chain
  cases f with
  | nil =>
    simp only [List.head?_nil] at hh
    simp [DebitPool.takeFree, hh] at ht
  | cons x xs =>
    simp only [List.head?_cons] at hh
    have hx : x ∉ xs := fun hm => by
      have := w.counts b b x
      have h2 := List.count_pos_iff.2 hm
      simp only [List.count_cons_self] at this
      omega
    have lx := w.free.chain.2
    -- the FREE queue left behind
    have hfree : ∃ q, p' = { p with free := q } ∧ r = x ∧ q.Lists p.records xs := by
      simp only [DebitPool.takeFree, hh, Option.some.injEq, Prod.mk.injEq] at ht
      refine ⟨_, ht.2.symm, ht.1.symm, ?_⟩
      have tl := w.free.tail
      cases xs with
      | nil =>
        have e : (p.free.tail == some x) = true := by simp [tl]
        refine ⟨?_, ?_, ?_, ?_⟩
        · simp [e, linked]
        · simp [e]
        · simp [w.free.count]
        · have := w.free.total
          have c := (w.clear x (by simp)).1
          simp only [chainVolume, List.map_cons, List.map_nil, List.sum_cons, List.sum_nil] at this ⊢
          omega
      | cons y ys =>
        have hl : (x :: y :: ys).getLast? = (y :: ys).getLast? := by simp [List.getLast?_cons_cons]
        have e : (p.free.tail == some x) = false := by
          rw [tl, hl]
          refine beq_eq_false_iff_ne.2 fun e => hx (List.mem_of_getLast? e)
        refine ⟨?_, ?_, ?_, ?_⟩
        · simp only [e]; exact lx
        · simp only [e]; rw [tl, hl]; rfl
        · simp [w.free.count]
        · have := w.free.total
          have c := (w.clear x (by simp)).1
          simp only [chainVolume, List.map_cons, List.sum_cons] at this ⊢
          omega
    obtain ⟨q, hp', hr, wq⟩ := hfree
    subst hr hp'
    -- the filled record stands in no queue
    let rec' : Vector DebitRecord 64 := upd p.records r fun _ => { link := none, swath := swath, volume := volume }
    have keep : ∀ (q' : Queue) (l' : List RecordIx), q'.Lists p.records l' → r ∉ l' → q'.Lists rec' l' := by
      intro q' l' w' hn
      refine w'.congr fun y hy => ?_
      have : y ≠ r := fun e => hn (e ▸ hy)
      simp only [rec', upd_ne _ _ _ _ this, and_self]
    have npe : ∀ c, r ∉ pe c := fun c hm => by
      have := w.counts c b r
      have h2 := List.count_pos_iff.2 hm
      simp only [List.count_cons_self] at this
      omega
    have nba : ∀ c, r ∉ ba c := fun c hm => by
      have := w.counts b c r
      have h2 := List.count_pos_iff.2 hm
      simp only [List.count_cons_self] at this
      omega
    have wone : Queue.Lists rec' { head := some r, tail := some r, count := 1, total := rec'[r].volume } [r] := by
      refine ⟨⟨rfl, ?_⟩, rfl, rfl, ?_⟩
      · simp [rec', linked]
      · simp only [chainVolume, List.map_cons, List.map_nil, List.sum_cons, List.sum_nil, Nat.add_zero]
    have nd : (pe b ++ [r]).Nodup := nodup_append_of_counts fun y => by
      by_cases e : y = r
      · subst e
        have := List.count_eq_zero.2 (npe b)
        simp [this]
      · have h1 := w.counts b b y
        have h2 : ([r] : List RecordIx).count y = 0 := List.count_eq_zero.2 (by simpa using e)
        omega
    obtain ⟨j1, j2, j3⟩ := joinQueues_lists (keep _ _ (w.pend b) (npe b)) wone nd
    refine Chains.partitioned (f := xs) (pe := Function.update pe b (pe b ++ [r])) (ba := ba) ⟨?_, ?_, ?_, ?_, ?_⟩
    · refine j2 _ _ (keep _ _ wq hx) (not_mem_of_count fun y => ?_)
      have := w.counts b b y
      have := List.count_le_count_cons (a := y) (b := r) (l := xs)
      omega
    · intro c
      let one : Queue := { head := some r, tail := some r, count := 1, total := rec'[r].volume }
      by_cases e : c = b
      · subst e
        have e1 : (upd p.pend c fun _ => (joinQueues p.pend[c] one rec').1)[c] = (joinQueues p.pend[c] one rec').1 :=
          upd_self _ _ _
        rw [Function.update_self]
        show Queue.Lists _ (upd p.pend c fun _ => (joinQueues p.pend[c] one rec').1)[c] _
        rw [e1]
        exact j1
      · have e1 : (upd p.pend b fun _ => (joinQueues p.pend[b] one rec').1)[c] = p.pend[c] := upd_ne _ _ _ _ e
        rw [Function.update_of_ne e]
        show Queue.Lists _ (upd p.pend b fun _ => (joinQueues p.pend[b] one rec').1)[c] _
        rw [e1]
        exact j2 _ _ (keep _ _ (w.pend c) (npe c)) (not_mem_of_count fun y => by have := w.pend_pend e y; omega)
    · intro c
      exact j2 _ _ (keep _ _ (w.batch c) (nba c)) (not_mem_of_count fun y => by have := w.counts b c y; omega)
    · intro y
      have h1 := w.once y
      have h2 := sum_update pe b (pe b ++ [r]) y
      rw [List.count_append] at h2
      unfold occurrences at h1 ⊢
      rw [List.count_cons] at h1
      have h3 : ([r] : List RecordIx).count y = if r == y then 1 else 0 := by simp [List.count_cons]
      omega
    · intro y hy
      have ne : y ≠ r := fun e => hx (e ▸ hy)
      have := w.clear y (by simp [hy])
      have k1 : rec'[y] = p.records[y] := upd_ne _ _ _ _ ne
      refine ⟨(j3 y).1.trans ?_, (j3 y).2.trans ?_⟩
      · show rec'[y].volume = 0
        rw [k1]; exact this.1
      · show rec'[y].swath = 0
        rw [k1]; exact this.2

/-- The partition depends on the records and the queues alone. -/
theorem partitioned_congr {p q : DebitPool} (hr : q.records = p.records) (hf : q.free = p.free) (hp : q.pend = p.pend)
    (hb : q.batch = p.batch) (h : p.Partitioned) : q.Partitioned := by
  unfold DebitPool.Partitioned at h ⊢
  rw [hr, hf, hp, hb]
  exact h

end Sys2Proof.Machine
end

