-- ==== Sys2Proof/Laws/Frame.lean ====
section
/-! SUPPORT. What the work inside the part cannot do: no operation of the tag lines, the bay contexts, the commit engine,
the registry's working copy, the verdict unit, the pool or the link port's answers touches the part state, the pins, the
profile, the SRAM, the array, the tracker, the meter, the swath memory port or the queue of commands; and each keeps the
notice queue's bound and the pool's partition. -/

namespace Sys2Proof.Machine

/-- The outer state: what only the part-level acts and the swath and memory side change. -/
structure Outer where
  powered : Bool
  pins : Pins
  part : PartState
  loadPhase : LoadPhase
  accepted : Option Profile
  copies : Option Profile
  sram : Memory
  array : StoredArray
  tracker : SwathTracker
  meter : DropMeter
  port : MemoryPort
  fire : FirePort
  pending : List Instr

def State.outer (s : State) : Outer :=
  { powered := s.powered, pins := s.pins, part := s.part, loadPhase := s.loadPhase, accepted := s.accepted,
    copies := s.copies, sram := s.sram, array := s.array, tracker := s.tracker, meter := s.meter, port := s.port,
    fire := s.fire, pending := s.pending }

/-- `t` keeps the outer state of `s`, the notice queue's bound and the pool's partition. -/
structure Keeps (s t : State) : Prop where
  outer : t.outer = s.outer
  notices : s.notices.ok = true → t.notices.ok = true
  pool : s.pool.Partitioned → t.pool.Partitioned

namespace Keeps
theorem refl (s : State) : Keeps s s := ⟨rfl, id, id⟩

theorem trans {s t u : State} (h : Keeps s t) (k : Keeps t u) : Keeps s u :=
  ⟨k.outer.trans h.outer, fun x => k.notices (h.notices x), fun x => k.pool (h.pool x)⟩

section
variable {s t : State} (h : Keeps s t)
include h
theorem powered : t.powered = s.powered := congrArg Outer.powered h.outer
theorem pins : t.pins = s.pins := congrArg Outer.pins h.outer
theorem part : t.part = s.part := congrArg Outer.part h.outer
theorem loadPhase : t.loadPhase = s.loadPhase := congrArg Outer.loadPhase h.outer
theorem accepted : t.accepted = s.accepted := congrArg Outer.accepted h.outer
theorem copies : t.copies = s.copies := congrArg Outer.copies h.outer
theorem sram : t.sram = s.sram := congrArg Outer.sram h.outer
theorem array : t.array = s.array := congrArg Outer.array h.outer
theorem tracker : t.tracker = s.tracker := congrArg Outer.tracker h.outer
theorem meter : t.meter = s.meter := congrArg Outer.meter h.outer
theorem port : t.port = s.port := congrArg Outer.port h.outer
theorem fire : t.fire = s.fire := congrArg Outer.fire h.outer
theorem pending : t.pending = s.pending := congrArg Outer.pending h.outer
end
end Keeps

/-! ### Updates of one block -/

section
variable (s : State)
theorem keeps_modCtx (b : Bay) (f : BayContext → BayContext) : Keeps s (s.modCtx b f) := ⟨rfl, id, id⟩
theorem keeps_modLine (b : Bay) (f : LineUnit → LineUnit) : Keeps s (s.modLine b f) := ⟨rfl, id, id⟩
theorem keeps_modCommit (b : Bay) (f : CommitContext → CommitContext) : Keeps s (s.modCommit b f) := ⟨rfl, id, id⟩
theorem keeps_modMark (b : Bay) (f : MarkWriter → MarkWriter) : Keeps s (s.modMark b f) := ⟨rfl, id, id⟩
theorem keeps_modEntry (e : EntryIx) (f : Entry → Entry) : Keeps s (s.modEntry e f) := ⟨rfl, id, id⟩
theorem keeps_modHeader (f : Header → Header) : Keeps s (s.modHeader f) := ⟨rfl, id, id⟩
theorem keeps_modLink (f : LinkPort → LinkPort) : Keeps s (s.modLink f) := ⟨rfl, id, id⟩
theorem keeps_registry (r : Registry) : Keeps s { s with registry := r } := ⟨rfl, id, id⟩
theorem keeps_proof (p : ProofEngine) : Keeps s { s with proof := p } := ⟨rfl, id, id⟩
theorem keeps_bumpFree : Keeps s s.bumpFree := ⟨rfl, id, id⟩
theorem keeps_modPool (f : DebitPool → DebitPool) (h : s.pool.Partitioned → (f s.pool).Partitioned) :
    Keeps s (s.modPool f) := ⟨rfl, id, h⟩

theorem keeps_modPool_same (f : DebitPool → DebitPool) (hr : (f s.pool).records = s.pool.records)
    (hf : (f s.pool).free = s.pool.free) (hp : (f s.pool).pend = s.pool.pend) (hb : (f s.pool).batch = s.pool.batch) :
    Keeps s (s.modPool f) := ⟨rfl, id, partitioned_congr hr hf hp hb⟩

theorem keeps_post (k : NoticeKind) (b : Option Bay) (p : List Byte) (h : k ≠ .queueFull) : Keeps s (post k b p s) := by
  refine ⟨?_, post_ok k b p s h, fun w => partitioned_congr ?_ ?_ ?_ ?_ w⟩ <;> simp [State.outer]

/-- A choice between two states that both keep. -/
theorem keeps_ite (c : Prop) [Decidable c] {t u : State} (h : Keeps s t) (k : Keeps s u) :
    Keeps s (if c then t else u) := by
  split
  · exact h
  · exact k

theorem keeps_forBays (f : Bay → State → State) (h : ∀ b t, Keeps t (f b t)) : Keeps s (forBays f s) := by
  have : ∀ (l : List Bay) (s : State), Keeps s (l.foldl (fun t b => f b t) s) := by
    intro l
    induction l with
    | nil => exact fun s => .refl s
    | cons b l ih => exact fun s => (h b s).trans (ih _)
  exact this allBays s

/-! ### Registry -/

theorem keeps_postTagFault (b : Bay) (c : Claimant) (r : FaultReason) : Keeps s (postTagFault b c r s) :=
  keeps_post s _ _ _ (by decide)

theorem keeps_writeOff (v : Nat) (b : Option Bay) : Keeps s (writeOff v b s) := by
  unfold writeOff
  split
  · exact .refl s
  · exact (keeps_modHeader s _).trans (keeps_post _ _ _ _ (by decide))

theorem keeps_markDirty (e : EntryIx) : Keeps s (markDirty e s) := keeps_modEntry s _ _

theorem keeps_addDebt (e : EntryIx) (v : Nat) (b : Option Bay) : Keeps s (addDebt e v b s) :=
  (keeps_modEntry s _ _).trans (keeps_writeOff _ _ _)

theorem keeps_createEntry (e : EntryIx) (k : LookupKey) : Keeps s (createEntry e k s) := keeps_modEntry s _ _

theorem keeps_evict (e : EntryIx) (b : Bay) : Keeps s (evict e b s) :=
  (keeps_writeOff s _ _).trans (keeps_modEntry _ _ _)

theorem keeps_lookup (b : Bay) (k : LookupKey) : Keeps s (lookup b k s).1 := by
  unfold lookup
  split
  · split
    · exact keeps_modEntry s _ _
    · exact .refl s
  · split
    · exact keeps_createEntry s _ _
    · split
      · exact (keeps_evict s _ _).trans (keeps_createEntry _ _ _)
      · exact .refl s

theorem Keeps.of_lookup {s t : State} {b : Bay} {k : LookupKey} {a : LookupAnswer} (e : lookup b k s = (t, a)) :
    Keeps s t := by
  have := keeps_lookup s b k
  rwa [e] at this

theorem keeps_holdLookup (b : Bay) : Keeps s (holdLookup b s) :=
  (keeps_registry s _).trans (keeps_postTagFault _ _ _ _)

theorem keeps_dropLookup (b : Bay) : Keeps s (dropLookup b s) := keeps_registry s _

theorem keeps_writerTurn (a : Bool) : Keeps s (writerTurn a s) := by
  unfold writerTurn
  split
  · split
    · exact keeps_registry s _
    · exact .refl s
  · exact .refl s

/-! ### Lines and the proof engine -/

theorem keeps_arbitrate (b : Bay) : Keeps s (arbitrate b s) := by
  unfold arbitrate
  exact keeps_ite s _ (keeps_modLine s _ _) (.refl s)

theorem keeps_claimArrives (b : Bay) (c : Claim) : Keeps s (claimArrives b c s).1 := by
  unfold claimArrives
  split
  · exact .refl s
  · split
    · exact (keeps_modLine s _ _).trans (keeps_arbitrate _ _)
    · exact keeps_postTagFault s _ _ _

theorem Keeps.of_claim {s t : State} {b : Bay} {c : Claim} {o : Option LineOutcome} (e : claimArrives b c s = (t, o)) :
    Keeps s t := by
  have := keeps_claimArrives s b c
  rwa [e] at this

theorem keeps_admissionClaim (b : Bay) (c : TagCommand) (p l : Nat) (d : List Byte) :
    Keeps s (admissionClaim b c p l d s) := keeps_claimArrives s _ _

theorem keeps_requestProof (b : Bay) (w : Requester) (i : ProofInputs) : Keeps s (requestProof b w i s) := keeps_proof s _

theorem keeps_proofComputed (i : ProofInputs) : Keeps s (proofComputed i s) := by
  unfold proofComputed
  split
  · exact (keeps_bumpFree s).trans (keeps_proof _ _)
  · exact .refl s
  · exact .refl s

/-! ### Pool -/

theorem keeps_addCarry (b : Bay) (v : Nat) : Keeps s (addCarry b v s) :=
  (keeps_modPool_same s _ rfl rfl rfl rfl).trans (keeps_writeOff _ _ _)

theorem keeps_setStarved (b : Bay) (f : Nat → Nat) :
    Keeps s (s.modPool fun p => { p with starved := upd p.starved b f }) := by
  refine keeps_modPool_same s _ ?_ ?_ ?_ ?_ <;> rfl

theorem keeps_starve (b : Bay) (v : Nat) : Keeps s (starve b v s) := by
  unfold starve
  exact ((keeps_addCarry s b v).trans (keeps_setStarved _ _ _)).trans (keeps_post _ _ _ _ (by decide))

theorem keeps_emptyPend (b : Bay) (f : Nat → Nat) :
    Keeps s (s.modPool fun p =>
      let p' := p.pendToFree b
      { p' with carry := upd p'.carry b f }) := by
  refine keeps_modPool s _ fun h => ?_
  refine partitioned_congr ?_ ?_ ?_ ?_ (partitioned_pendToFree b _ h) <;> rfl

theorem keeps_placeInPending (b : Bay) (w : BitVec 16) (v : Nat) : Keeps s (placeInPending b w v s) := by
  unfold placeInPending
  split
  · rename_i r p h
    exact ⟨rfl, id, fun hp => partitioned_place b w v _ _ r hp h⟩
  · exact keeps_starve s _ _

theorem keeps_placeTally (b : Bay) (e : EntryIx) (w : BitVec 16) (v : Nat) : Keeps s (placeTally b e w v s) := by
  unfold placeTally
  split
  · exact keeps_addDebt s _ _ _
  · split
    · exact keeps_placeInPending s _ _ _
    · split
      · exact keeps_addCarry s _ _
      · exact keeps_addDebt s _ _ _

theorem keeps_fold (b : Bay) : Keeps s (fold b s) := by
  unfold fold
  split
  · exact .refl s
  · exact (keeps_addDebt s _ _ _).trans (keeps_emptyPend _ _ _)

/-! ### Marks and verdicts -/

theorem keeps_changeAction (b : Bay) (a : Action) : Keeps s (changeAction b a s) := keeps_modCtx s _ _

theorem keeps_stickyFault (b : Bay) (f : StickyFault) : Keeps s (stickyFault b f s) := keeps_modCtx s _ _

end

theorem keeps_startStamps (b : Bay) : ∀ (l : List Verdict) (s : State), Keeps s (startStamps b l s)
  | [], s => keeps_modMark s _ _
  | k :: ks, s => by
    unfold startStamps
    dsimp only
    split
    · exact (keeps_post s _ _ _ (by decide)).trans (keeps_startStamps b ks _)
    · split
      · rename_i e
        exact (keeps_modMark s _ _).trans (.of_claim e)
      · rename_i e
        exact ((keeps_modMark s _ _).trans (.of_claim e)).trans (keeps_modMark _ _ _)
      · rename_i e
        exact (((keeps_modMark s _ _).trans (.of_claim e)).trans (keeps_post _ _ _ _ (by decide))).trans
          (keeps_startStamps b ks _)

section
variable (s : State)

theorem keeps_requestStamp (b : Bay) (k : Verdict) : Keeps s (requestStamp b k s) := by
  unfold requestStamp
  split
  · exact .refl s
  split
  · exact .refl s
  split
  · exact .refl s
  split
  · exact .refl s
  dsimp only
  exact keeps_ite s _ (keeps_startStamps _ _ _) (keeps_modMark s _ _)

theorem keeps_nextStamp (b : Bay) : Keeps s (nextStamp b s) := by
  unfold nextStamp
  exact keeps_ite s _ (keeps_startStamps _ _ _) (keeps_modMark s _ _)

theorem keeps_markOutcome (b : Bay) (c : Claim) (o : LineOutcome) : Keeps s (markOutcome b c o s) := by
  unfold markOutcome
  split
  · exact ((keeps_modCtx s _ _).trans (keeps_post _ _ _ _ (by decide))).trans (keeps_nextStamp _ _)
  · exact keeps_modMark s _ _
  · exact keeps_modMark s _ _
  · exact (keeps_post s _ _ _ (by decide)).trans (keeps_nextStamp _ _)
  · exact .refl s

theorem keeps_resolveDoubt (b : Bay) (e : EntryIx) (l u : Nat) : Keeps s (resolveDoubt b e l u s).1 := by
  unfold resolveDoubt
  dsimp only
  split
  · exact .refl s
  · split
    · exact (keeps_addDebt s _ _ _).trans (keeps_modEntry _ _ _)
    · exact keeps_modEntry s _ _

theorem keeps_drawAllowance (b : Bay) (e : EntryIx) (v : Nat) : Keeps s (drawAllowance b e v s) := by
  unfold drawAllowance
  dsimp only
  split
  · exact .refl s
  · split
    · refine Keeps.trans ?_ (keeps_post _ _ _ _ (by decide))
      split
      · exact ((keeps_modEntry s _ _).trans (keeps_modEntry _ _ _)).trans (keeps_changeAction _ _ _)
      · exact (keeps_modEntry s _ _).trans (keeps_modEntry _ _ _)
    · exact keeps_modEntry s _ _

theorem keeps_escalate (b : Bay) (e : EntryIx) : Keeps s (escalate b e s) := by
  unfold escalate
  dsimp only
  have h : ∀ (c d : Prop) [Decidable c] [Decidable d] (f : Entry → Entry) (a : Action) (p : List Byte),
      Keeps s (if c then s else post .refillVerdict (some b) p
        (if d then changeAction b a (s.modEntry e f) else s.modEntry e f)) := by
    intro c d _ _ f a p
    refine keeps_ite s c (.refl s) ?_
    refine Keeps.trans ?_ (keeps_post _ _ _ _ (by decide))
    exact keeps_ite s d ((keeps_modEntry s _ _).trans (keeps_changeAction _ _ _)) (keeps_modEntry s _ _)
  split
  · exact (h _ _ _ _ _).trans (keeps_requestStamp _ _ _)
  · exact h _ _ _ _ _

/-! ### Commits -/

theorem keeps_formBatch (b : Bay) (e : EntryIx) : Keeps s (formBatch b e s) := by
  unfold formBatch
  dsimp only
  refine Keeps.trans ?_ (keeps_modCommit _ _ _)
  refine Keeps.trans ?_ (keeps_modEntry _ _ _)
  refine keeps_modPool _ _ fun h => ?_
  refine partitioned_congr ?_ ?_ ?_ ?_ (partitioned_pendToBatch b _ h) <;> rfl

theorem keeps_absorb (b : Bay) (e : EntryIx) : Keeps s (absorb b e s) :=
  ((keeps_modEntry s _ _).trans (keeps_modPool _ _ (partitioned_batchToFree b _))).trans (keeps_modCommit _ _ _)

theorem keeps_returnBatch (b : Bay) (e : EntryIx) : Keeps s (returnBatch b e s) :=
  (((keeps_modPool s _ (partitioned_batchToPend b _)).trans (keeps_addCarry _ _ _)).trans (keeps_modEntry _ _ _)).trans
    (keeps_modCommit _ _ _)

theorem keeps_refuseCountSpent (b : Bay) (e : EntryIx) : Keeps s (refuseCountSpent b e s) :=
  ((keeps_returnBatch s b e).trans (keeps_stickyFault _ _ _)).trans (keeps_post _ _ _ _ (by decide))

theorem keeps_planWrite (b : Bay) : Keeps s (planWrite b s) :=
  (keeps_modCommit s _ _).trans (keeps_requestProof _ _ _ _)

theorem keeps_commitStart (b : Bay) (e : EntryIx) : Keeps s (commitStart b e s) := by
  unfold commitStart
  dsimp only
  refine (keeps_formBatch s b e).trans ?_
  split
  · exact keeps_absorb _ _ _
  · split
    · exact keeps_refuseCountSpent _ _ _
    · exact keeps_planWrite _ _

theorem keeps_judge (b : Bay) : Keeps s (judge b s) := by
  unfold judge
  split
  · exact keeps_commitStart s _ _
  · exact .refl s

theorem keeps_levelNotices (b : Bay) : Keeps s (levelNotices b s) := by
  unfold levelNotices
  have h : ∀ (c : Prop) [Decidable c] (p : List Byte) (f : CommitContext → CommitContext),
      Keeps s (if c then post .levelLow (some b) p (s.modCommit b f) else s) := fun c _ p f =>
    keeps_ite s c ((keeps_modCommit s _ _).trans (keeps_post _ _ _ _ (by decide))) (.refl s)
  dsimp only
  split
  · exact (h _ _ _).trans (keeps_post _ _ _ _ (by decide))
  · exact h _ _ _

theorem keeps_overdrawTest (b : Bay) (e : EntryIx) : Keeps s (overdrawTest b e s) := by
  unfold overdrawTest
  exact keeps_ite s _ (keeps_escalate s _ _) (.refl s)

theorem keeps_chargeTag (b : Bay) (e : EntryIx) : Keeps s (chargeTag b e s) :=
  (((keeps_modCtx s _ _).trans (keeps_modEntry _ _ _)).trans (keeps_modPool _ _ (partitioned_batchToFree b _))).trans
    (keeps_modCommit _ _ _)

theorem keeps_commitSuccess (b : Bay) (e : EntryIx) : Keeps s (commitSuccess b e s) :=
  ((((((keeps_chargeTag s b e).trans (keeps_modEntry _ _ _)).trans (keeps_levelNotices _ _)).trans
    (keeps_overdrawTest _ _ _)).trans (keeps_post _ _ _ _ (by decide))).trans (keeps_modCommit _ _ _)).trans
    (keeps_judge _ _)

theorem keeps_refold (b : Bay) : Keeps s (refold b s) := by
  unfold refold
  exact keeps_ite s _ (keeps_fold s _) (.refl s)

theorem keeps_commitFailure (b : Bay) (e : EntryIx) (r : FaultReason) : Keeps s (commitFailure b e r s) :=
  (((keeps_returnBatch s b e).trans (keeps_stickyFault _ _ _)).trans (keeps_post _ _ _ _ (by decide))).trans
    (keeps_refold _ _)

theorem keeps_commitWithdrawn (b : Bay) (e : EntryIx) : Keeps s (commitWithdrawn b e s) :=
  (keeps_returnBatch s b e).trans (keeps_refold _ _)

theorem keeps_commitOutcome (b : Bay) (o : LineOutcome) : Keeps s (commitOutcome b o s) := by
  unfold commitOutcome
  split
  · exact .refl s
  · split
    · exact keeps_commitSuccess s _ _
    · exact keeps_commitFailure s _ _ _
    · exact keeps_commitFailure s _ _ _
    · exact keeps_commitFailure s _ _ _
    · exact keeps_commitFailure s _ _ _
    · exact .refl s
    · exact keeps_commitWithdrawn s _ _

theorem keeps_checkCodeArrives (b : Bay) (code : List Byte) : Keeps s (checkCodeArrives b code s) := by
  unfold checkCodeArrives
  dsimp only
  split
  · split
    · split
      · rename_i e
        exact (keeps_modCommit s _ _).trans (.of_claim e)
      · rename_i e
        exact ((keeps_modCommit s _ _).trans (.of_claim e)).trans (keeps_commitOutcome _ _ _)
    · exact keeps_commitWithdrawn s _ _
  · exact .refl s

theorem keeps_commitStoreSent (b : Bay) : Keeps s (commitStoreSent b s) := keeps_modCommit s _ _

theorem keeps_abandonInDoubt (b : Bay) (e : EntryIx) : Keeps s (abandonInDoubt b e s) :=
  ((keeps_modEntry s _ _).trans (keeps_modPool _ _ (partitioned_batchToFree b _))).trans (keeps_modCommit _ _ _)

theorem keeps_abandonCommit (b : Bay) (x : Bool) : Keeps s (abandonCommit b x s).1 := by
  unfold abandonCommit
  split
  · exact .refl s
  · split
    · exact .refl s
    · split
      · exact keeps_abandonInDoubt s _ _
      · exact keeps_returnBatch s _ _

theorem keeps_startFlush (b : Bay) : Keeps s (startFlush b s) := keeps_modCommit s _ _
theorem keeps_stopFlush (b : Bay) : Keeps s (stopFlush b s) := keeps_modCommit s _ _

theorem keeps_flushElapsed (b : Bay) : Keeps s (flushElapsed b s) := by
  unfold flushElapsed
  split
  · exact (keeps_modCommit s _ _).trans (keeps_judge _ _)
  · exact .refl s

/-! ### Admission -/

theorem keeps_enterSettling (b : Bay) : Keeps s (enterSettling b s) := keeps_modCtx s _ _

theorem keeps_enterIdentifying (b : Bay) : Keeps s (enterIdentifying b s) :=
  (keeps_modCtx s _ _).trans (keeps_admissionClaim _ _ _ _ _ _)

theorem keeps_noResponse (b : Bay) : Keeps s (noResponse b s) := keeps_modCtx s _ _

theorem keeps_reject (b : Bay) (r : RejectReason) : Keeps s (reject b r s) :=
  (keeps_modCtx s _ _).trans (keeps_post _ _ _ _ (by decide))

theorem keeps_beginAttempt (b : Bay) : Keeps s (beginAttempt b s) :=
  (keeps_modCtx s _ _).trans (keeps_requestProof _ _ _ _)

theorem keeps_enterProving (b : Bay) : Keeps s (enterProving b s) :=
  (keeps_modCtx s _ _).trans (keeps_beginAttempt _ _)

theorem keeps_enterChecking (b : Bay) : Keeps s (enterChecking b s) :=
  (keeps_modCtx s _ _).trans (keeps_admissionClaim _ _ _ _ _ _)

theorem keeps_identificationChecks (b : Bay) (id : List Byte) : Keeps s (identificationChecks b id s) := by
  unfold identificationChecks
  split
  · exact keeps_reject s _ _
  · exact keeps_enterProving s _

theorem keeps_identityPeek (b : Bay) (p : Nat) (o : LineOutcome) : Keeps s (identityPeek b p o s) := by
  unfold identityPeek
  split
  · split
    · exact (keeps_modCtx s _ _).trans (keeps_admissionClaim _ _ _ _ _ _)
    · exact (keeps_modCtx s _ _).trans (keeps_identificationChecks _ _ _)
  · exact .refl s
  · exact .refl s
  · exact keeps_noResponse s _

theorem keeps_nonceArrives (b : Bay) (n : List Byte) : Keeps s (nonceArrives b n s) :=
  ((keeps_modCtx s _ _).trans (keeps_admissionClaim _ _ _ _ _ _)).trans (keeps_requestProof _ _ _ _)

theorem keeps_failedAttempt (b : Bay) : Keeps s (failedAttempt b s) := by
  unfold failedAttempt
  dsimp only
  split
  · exact (keeps_modCtx s _ _).trans (keeps_reject _ _ _)
  · exact (keeps_modCtx s _ _).trans (keeps_beginAttempt _ _)

theorem keeps_settleProof (b : Bay) : Keeps s (settleProof b s) := by
  unfold settleProof
  split
  · split
    · exact keeps_enterChecking s _
    · exact keeps_failedAttempt s _
  · exact .refl s

theorem keeps_proveOutcome (b : Bay) (o : LineOutcome) : Keeps s (proveOutcome b o s) := by
  unfold proveOutcome
  dsimp only
  split
  · exact (keeps_modCtx s _ _).trans (keeps_settleProof _ _)
  · exact (keeps_modCtx s _ _).trans (keeps_settleProof _ _)
  · exact (keeps_modCtx s _ _).trans (keeps_settleProof _ _)
  · exact keeps_noResponse s _
  · exact keeps_noResponse s _
  · exact .refl s
  · exact .refl s

theorem keeps_expectedArrives (b : Bay) (x : List Byte) : Keeps s (expectedArrives b x s) :=
  (keeps_modCtx s _ _).trans (keeps_settleProof _ _)

theorem keeps_judgeCartridge (b : Bay) (e : EntryIx) (f g : Bool) (i l m : List Byte) :
    Keeps s (judgeCartridge b e f g i l m s).1 :=
  (((keeps_modCtx s _ _).trans (keeps_resolveDoubt _ _ _ _ _)).trans (keeps_modEntry _ _ _)).trans (keeps_modCtx _ _ _)

theorem keeps_bindEntry (b : Bay) (e : EntryIx) : Keeps s (bindEntry b e s) := by
  unfold bindEntry
  dsimp only
  refine Keeps.trans ?_ (keeps_modHeader _ _)
  refine Keeps.trans ?_ (keeps_modEntry _ _ _)
  refine Keeps.trans ?_ (keeps_addCarry _ _ _)
  exact keeps_modEntry s _ _

theorem keeps_stamps (b : Bay) : ∀ (l : List Verdict) (s : State), Keeps s (l.foldl (fun t k => requestStamp b k t) s)
  | [], s => .refl s
  | k :: ks, s => (keeps_requestStamp s b k).trans (keeps_stamps b ks _)

theorem keeps_completeAdmission (b : Bay) (e : EntryIx) (f g : Bool) (i l m : List Byte) : Keeps s (completeAdmission b e f g i l m s) :=
  ((((keeps_judgeCartridge s b e f g i l m).trans (keeps_bindEntry _ _ _)).trans (keeps_post _ _ _ _ (by decide))).trans
    (keeps_stamps b _ _)).trans (keeps_judge _ _)

theorem keeps_checkingComplete (b : Bay) : Keeps s (checkingComplete b s) := by
  unfold checkingComplete
  split
  · split
    · rename_i e; exact (Keeps.of_lookup e).trans (keeps_completeAdmission _ _ _ _ _ _ _ _)
    · rename_i e; exact (Keeps.of_lookup e).trans (keeps_completeAdmission _ _ _ _ _ _ _ _)
    · rename_i e; exact (Keeps.of_lookup e).trans (keeps_holdLookup _ _)
    · rename_i e; exact .of_lookup e
  · exact .refl s

theorem keeps_checkingPeek (b : Bay) (p : Nat) (o : LineOutcome) : Keeps s (checkingPeek b p o s) := by
  unfold checkingPeek
  split
  · split
    · exact ((keeps_modCtx s _ _).trans (keeps_admissionClaim _ _ _ _ _ _)).trans (keeps_requestProof _ _ _ _)
    · exact (keeps_modCtx s _ _).trans (keeps_checkingComplete _ _)
  · exact .refl s
  · exact .refl s
  · exact keeps_noResponse s _

theorem keeps_checkArrives (b : Bay) (c : List Byte) : Keeps s (checkArrives b c s) :=
  (keeps_modCtx s _ _).trans (keeps_checkingComplete _ _)

theorem keeps_admissionOutcome (b : Bay) (c : Claim) (o : LineOutcome) : Keeps s (admissionOutcome b c o s) := by
  unfold admissionOutcome
  split
  · exact keeps_identityPeek s _ _ _
  · exact keeps_proveOutcome s _ _
  · exact keeps_checkingPeek s _ _ _
  · exact .refl s

theorem keeps_admissionResult (b : Bay) (i : ProofInputs) (r : List Byte) : Keeps s (admissionResult b i r s) := by
  unfold admissionResult
  split
  · split
    · exact keeps_nonceArrives s _ _
    · exact keeps_expectedArrives s _ _
    · exact keeps_checkArrives s _ _
    · exact .refl s
  · exact .refl s

theorem keeps_answerHeld (x : BitVec 64) : Keeps s (answerHeld x s) := by
  unfold answerHeld
  split
  · exact (keeps_dropLookup s _).trans (keeps_checkingComplete _ _)
  · exact .refl s

theorem keeps_presenceRises (b : Bay) : Keeps s (presenceRises b s) := by
  unfold presenceRises
  dsimp only
  refine keeps_ite s _ (keeps_ite s _ (keeps_enterSettling s _) (.refl s)) ?_
  refine keeps_ite s _ (.refl s) (keeps_ite s _ (.refl s) ?_)
  exact keeps_ite s _ (keeps_modCtx s _ _) (keeps_modCtx s _ _)

theorem keeps_presenceDrops (b : Bay) : Keeps s (presenceDrops b s) := by
  unfold presenceDrops
  exact keeps_ite s _ (.refl s) (keeps_modCtx s _ _)

theorem keeps_settleExpires (b : Bay) : Keeps s (settleExpires b s) := by
  unfold settleExpires
  split
  · exact keeps_enterIdentifying s _
  · exact .refl s

/-! ### The link port's answers -/

theorem keeps_postLinkError (r : LinkFault) : Keeps s (postLinkError r s) := keeps_post s _ _ _ (by decide)

theorem keeps_respond (st : LinkStatus) (d : List Byte) : Keeps s (respond st d s) := by
  unfold respond
  split
  · exact keeps_ite s _ (keeps_modLink s _) (.refl s)
  · exact .refl s

theorem keeps_reportRefused (r : LinkRequest) : Keeps s (reportRefused r s) := by
  unfold reportRefused
  exact keeps_ite s _ (keeps_post s _ _ _ (by decide)) (.refl s)

theorem keeps_answerNow (r : LinkRequest) (st : LinkStatus) : Keeps s (answerNow r st s) :=
  ((keeps_ite s (st = .refused) (keeps_reportRefused s r) (.refl s)).trans (keeps_modLink _ _)).trans
    (keeps_respond _ _ _)

theorem keeps_answerOutcome (o : LineOutcome) : Keeps s (answerOutcome o s) := keeps_respond s _ _

theorem keeps_makeLinkClaim (r : LinkRequest) : Keeps s (makeLinkClaim r s) := by
  unfold makeLinkClaim
  split
  · rename_i e; exact .of_claim e
  · rename_i e; exact (Keeps.of_claim e).trans (keeps_answerOutcome _ _)

theorem keeps_passThrough (r : LinkRequest) : Keeps s (passThrough r s) := by
  unfold passThrough
  exact keeps_ite s _ (keeps_modLink s _) (keeps_makeLinkClaim s _)

theorem keeps_orphanEnds (b : Bay) : Keeps s (orphanEnds b s) := by
  unfold orphanEnds
  dsimp only
  split
  · exact keeps_modLink s _
  · split
    · exact ((keeps_modLink s _).trans (keeps_modLink _ _)).trans (keeps_answerNow _ _ _)
    · exact ((keeps_modLink s _).trans (keeps_modLink _ _)).trans (keeps_makeLinkClaim _ _)

theorem keeps_updateLock (b : Bay) (c : Claim) (o : LineOutcome) : Keeps s (updateLock b c o s) := by
  unfold updateLock
  split
  · exact keeps_ite s _ (keeps_modCtx s _ _) (.refl s)
  · exact .refl s

theorem keeps_linkOutcome (b : Bay) (c : Claim) (o : LineOutcome) : Keeps s (linkOutcome b c o s) := by
  unfold linkOutcome
  refine (keeps_updateLock s b c o).trans ?_
  exact keeps_ite _ _ (keeps_orphanEnds _ _) (keeps_answerOutcome _ _)

theorem keeps_answerBadFrame : Keeps s (answerBadFrame s) := keeps_modLink s _

theorem keeps_overrunByte : Keeps s (overrunByte s) := by
  unfold overrunByte
  exact keeps_ite s _ (keeps_modLink s _) ((keeps_modLink s _).trans (keeps_postLinkError _ _))

theorem keeps_badFrameExpires : Keeps s (badFrameExpires s) := by
  unfold badFrameExpires
  exact keeps_ite s _ (keeps_answerBadFrame s) (.refl s)

theorem keeps_stallExpires : Keeps s (stallExpires s) := by
  unfold stallExpires
  exact keeps_ite s _ ((keeps_modLink s _).trans (keeps_postLinkError _ _)) (.refl s)

theorem keeps_overrunQuietExpires : Keeps s (overrunQuietExpires s) := keeps_modLink s _

theorem keeps_responseSent : Keeps s (responseSent s) := by
  unfold responseSent
  exact keeps_ite s _ (keeps_modLink s _) (.refl s)

theorem keeps_linkDeparture (b : Bay) : Keeps s (linkDeparture b s) :=
  (keeps_ite s (s.link.bay = some b) (keeps_respond s _ _) (.refl s)).trans (keeps_modLink _ _)

theorem keeps_linkDrainWaiting : Keeps s (linkDrainWaiting s) := by
  unfold linkDrainWaiting
  split
  · exact keeps_ite s _ (keeps_respond s _ _) (.refl s)
  · exact .refl s

/-! ### Transactions -/

theorem keeps_handOutcome (b : Bay) (c : Claim) (o : LineOutcome) : Keeps s (handOutcome b c o s) := by
  unfold handOutcome
  split
  · exact keeps_admissionOutcome s _ _ _
  · exact keeps_commitOutcome s _ _
  · exact keeps_markOutcome s _ _ _
  · exact keeps_linkOutcome s _ _ _

theorem keeps_reportOutcome (b : Bay) (w : Claimant) (o : LineOutcome) : Keeps s (reportOutcome b w o s) := by
  unfold reportOutcome
  split
  · exact keeps_postTagFault s _ _ _
  · exact .refl s

theorem keeps_endTransaction (b : Bay) (c : Claim) (o : LineOutcome) : Keeps s (endTransaction b c o s) :=
  ((((keeps_modLine s b _).trans (keeps_reportOutcome _ _ _ _)).trans (keeps_handOutcome _ _ _ _)).trans
    (keeps_modLine _ _ _)).trans (keeps_arbitrate _ _)

theorem keeps_requestGone (b : Bay) : Keeps s (requestGone b s) := by
  unfold requestGone
  split
  · exact keeps_ite s _ ((keeps_modLine s _ _).trans (keeps_commitStoreSent _ _)) (keeps_modLine s _ _)
  · exact .refl s

theorem keeps_requestFailed (b : Bay) (t : Transaction) (o : LineOutcome) : Keeps s (requestFailed b t o s) := by
  unfold requestFailed
  exact keeps_ite s _ (keeps_ite s _ (keeps_endTransaction s _ _ _) (keeps_modLine s _ _)) (keeps_endTransaction s _ _ _)

theorem keeps_firstReply (b : Bay) (t : Transaction) (r : ReplyClass) : Keeps s (firstReply b t r s) := by
  unfold firstReply
  split
  · exact keeps_ite s _ (keeps_endTransaction s _ _ _) (keeps_modLine s _ _)
  · exact keeps_modLine s _ _
  · exact keeps_endTransaction s _ _ _
  · exact keeps_requestFailed s _ _ _

theorem keeps_pollReply (b : Bay) (t : Transaction) (r : ReplyClass) : Keeps s (pollReply b t r s) := by
  unfold pollReply
  split
  · exact keeps_ite s _ (keeps_endTransaction s _ _ _) (keeps_endTransaction s _ _ _)
  · exact keeps_ite s _ (keeps_endTransaction s _ _ _) (keeps_modLine s _ _)
  · exact keeps_endTransaction s _ _ _
  · exact keeps_requestFailed s _ _ _

theorem keeps_lineHeard (b : Bay) : Keeps s (lineHeard b s) := keeps_modLine s _ _

theorem keeps_replyArrives (b : Bay) (a : TagAnswer) : Keeps s (replyArrives b a s) := by
  unfold replyArrives
  dsimp only
  split
  · split
    · exact (keeps_lineHeard s b).trans (keeps_firstReply _ _ _ _)
    · exact (keeps_lineHeard s b).trans (keeps_pollReply _ _ _ _)
  · exact keeps_lineHeard s b

theorem keeps_replyMissing (b : Bay) (x : Bool) : Keeps s (replyMissing b x s) := by
  unfold replyMissing
  dsimp only
  split
  · exact (keeps_ite s (x = true) (keeps_lineHeard s b) (.refl s)).trans (keeps_requestFailed _ _ _ _)
  · exact .refl s

theorem keeps_pollExpires (b : Bay) : Keeps s (pollExpires b s) := by
  unfold pollExpires
  split
  · exact keeps_modLine s _ _
  · exact .refl s

theorem keeps_limitExpires (b : Bay) : Keeps s (limitExpires b s) := by
  unfold limitExpires
  split
  · exact keeps_ite s _ (keeps_endTransaction s _ _ _) (keeps_modLine s _ _)
  · exact .refl s

theorem keeps_deliver (r : ProofRequest) (x : List Byte) : Keeps s (deliver r x s) := by
  unfold deliver
  refine keeps_ite s _ (.refl s) ?_
  split
  · exact keeps_admissionResult s _ _ _
  · exact keeps_checkCodeArrives s _ _

theorem keeps_serviceEnds : Keeps s (serviceEnds s) := by
  unfold serviceEnds
  split
  · exact .refl s
  · exact ((keeps_proofComputed s _).trans (keeps_deliver _ _ _)).trans (keeps_proof _ _)

/-! ### Handovers, departures, the drain's pieces -/

theorem keeps_handover (b : Bay) : Keeps s (handover b s) := by
  unfold handover
  dsimp only
  split
  · rename_i e _ _
    have h := (((keeps_ite s (s.meter.tally[b] = 0) (.refl s) (keeps_placeTally s b e s.tracker.number s.meter.tally[b]))).trans
      (keeps_drawAllowance _ b e s.meter.tally[b])).trans (keeps_judge _ b)
    split
    · exact h.trans (keeps_judge _ _)
    · exact h
  · exact .refl s

theorem keeps_releaseBay (b : Bay) : Keeps s (releaseBay b s) :=
  (((((keeps_proof s _).trans (keeps_modLine _ _ _)).trans (keeps_modMark _ _ _)).trans (keeps_modCommit _ _ _)).trans
    (keeps_dropLookup _ _)).trans (keeps_modCtx _ _ _)

theorem keeps_leaveBay (o : Option EntryIx) : Keeps s (leaveBay o s) := by
  unfold leaveBay
  split
  · exact keeps_modEntry s _ _
  · exact .refl s

theorem keeps_departure (b : Bay) : Keeps s (departure b s) := by
  unfold departure
  dsimp only
  have h := fun (p : List Byte) => ((((((keeps_linkDeparture s b).trans
    (keeps_abandonCommit _ b s.lines[b].commitStoreSent)).trans (keeps_fold _ b)).trans
    (keeps_leaveBay _ s.ctx[b].owner)).trans (keeps_post _ .bayDeparted (some b) p (by decide))).trans
    (keeps_releaseBay _ b))
  split
  · exact (h _).trans (keeps_answerHeld _ _)
  · exact h _

theorem keeps_absenceExpires (b : Bay) : Keeps s (absenceExpires b s) := by
  unfold absenceExpires
  split
  · exact keeps_ite s _ (.refl s) (keeps_departure s _)
  · exact .refl s

theorem keeps_drainBay (b : Bay) : Keeps s (drainBay b s) := by
  unfold drainBay
  exact keeps_ite s _ (keeps_releaseBay s _) (.refl s)

theorem keeps_withdrawCommit (b : Bay) : Keeps s (withdrawCommit b s) := by
  unfold withdrawCommit
  split
  · exact (keeps_modLine s _ _).trans (keeps_commitOutcome _ _ _)
  · exact .refl s

theorem keeps_withdrawMark (b : Bay) : Keeps s (withdrawMark b s) := by
  unfold withdrawMark
  dsimp only
  split
  · exact ((keeps_modLine s _ _).trans (keeps_markOutcome _ _ _ _)).trans (keeps_modMark _ _ _)
  · exact keeps_modMark s _ _

theorem keeps_withdrawLink (b : Bay) : Keeps s (withdrawLink b s) := by
  unfold withdrawLink
  split
  · exact (keeps_modLine s _ _).trans (keeps_answerOutcome _ _)
  · exact .refl s

theorem keeps_dirtyInBay : Keeps s (dirtyInBay s) := keeps_registry s _

end

end Sys2Proof.Machine
end

