-- ==== Sys2Proof/Laws/Memory.lean ====
section
/-! SUPPORT. The swath SRAM: a read after a write, and the canonical form that every write keeps. -/

namespace Sys2Proof.Machine

theorem wfFrom_mono : ∀ (m : Memory) (lo lo' : Nat), lo' ≤ lo → Memory.wfFrom lo m = true → Memory.wfFrom lo' m = true
  | [], _, _, _, _ => rfl
  | (a, v) :: m, lo, lo', h, w => by
    simp only [Memory.wfFrom, Bool.and_eq_true, decide_eq_true_eq] at w ⊢
    exact ⟨⟨by omega, w.1.2⟩, w.2⟩

theorem wfFrom_write : ∀ (m : Memory) (lo x : Nat) (v : Byte), lo ≤ x → Memory.wfFrom lo m = true →
    Memory.wfFrom lo (Memory.write m x v) = true
  | [], lo, x, v, h, _ => by
    unfold Memory.write
    split
    · rfl
    · simp [Memory.wfFrom, *]
  | (a, w) :: m, lo, x, v, h, k => by
    have k' := k
    simp only [Memory.wfFrom, Bool.and_eq_true, decide_eq_true_eq] at k
    unfold Memory.write
    split
    · split
      · exact k'
      · simp only [Memory.wfFrom, Bool.and_eq_true, decide_eq_true_eq]
        exact ⟨⟨h, by assumption⟩, ⟨⟨by omega, k.1.2⟩, k.2⟩⟩
    · split
      · split
        · exact wfFrom_mono m (a + 1) lo (by omega) k.2
        · simp only [Memory.wfFrom, Bool.and_eq_true, decide_eq_true_eq]
          refine ⟨⟨h, by assumption⟩, ?_⟩
          rename_i e _
          exact e ▸ k.2
      · simp only [Memory.wfFrom, Bool.and_eq_true, decide_eq_true_eq]
        exact ⟨k.1, wfFrom_write m (a + 1) x v (by omega) k.2⟩

/-- A write keeps the canonical form. -/
theorem wf_write (m : Memory) (x : Nat) (v : Byte) (h : m.wf = true) : (Memory.write m x v).wf = true :=
  wfFrom_write m 0 x v (Nat.zero_le _) h

/-- A link write keeps the canonical form. -/
theorem wf_writeBurst : ∀ (l : List Byte) (m : Memory) (a : Addr24), m.wf = true → (Memory.writeBurst m a l).wf = true
  | [], _, _, h => h
  | v :: vs, m, a, h => wf_writeBurst vs _ _ (wf_write m a.toNat v h)

theorem read_of_lt : ∀ (m : Memory) (lo x : Nat), x < lo → Memory.wfFrom lo m = true →
    Memory.read m x = Config.sramErased
  | [], _, _, _, _ => rfl
  | (a, v) :: m, lo, x, h, w => by
    simp only [Memory.wfFrom, Bool.and_eq_true, decide_eq_true_eq] at w
    unfold Memory.read
    rw [if_neg (by omega)]
    exact read_of_lt m (a + 1) x (by omega) w.2

theorem read_write_from : ∀ (m : Memory) (lo x y : Nat) (v : Byte), Memory.wfFrom lo m = true →
    Memory.read (Memory.write m x v) y = if y = x then v else Memory.read m y
  | [], lo, x, y, v, _ => by
    unfold Memory.write
    split
    · rename_i h
      by_cases e : y = x <;> simp [Memory.read, e, h]
    · by_cases e : y = x <;> simp [Memory.read, e]
  | (a, w) :: m, lo, x, y, v, k => by
    have k' := k
    simp only [Memory.wfFrom, Bool.and_eq_true, decide_eq_true_eq] at k
    unfold Memory.write
    split
    · rename_i hx
      split
      · rename_i hv
        by_cases e : y = x
        · subst e
          rw [if_pos rfl, hv]
          refine read_of_lt _ (y + 1) y (by omega) ?_
          simp only [Memory.wfFrom, Bool.and_eq_true, decide_eq_true_eq]
          exact ⟨⟨by omega, k.1.2⟩, k.2⟩
        · rw [if_neg e]
      · by_cases e : y = x <;> simp [Memory.read, e]
    · split
      · rename_i e0
        split
        · rename_i hv
          by_cases e : y = x
          · subst e
            rw [if_pos rfl, hv]
            exact read_of_lt m (a + 1) y (by omega) k.2
          · rw [if_neg e]
            have : y ≠ a := by omega
            simp [Memory.read, this]
        · by_cases e : y = x
          · simp [Memory.read, e]
          · have : y ≠ a := by omega
            simp [Memory.read, e, this]
      · by_cases e : y = a
        · have : y ≠ x := by omega
          simp [Memory.read, e]
          omega
        · simp only [Memory.read, e, if_false]
          exact read_write_from m (a + 1) x y v k.2

/-- What a byte reads as after a write. -/
theorem read_write (m : Memory) (x y : Nat) (v : Byte) (h : m.wf = true) :
    Memory.read (Memory.write m x v) y = if y = x then v else Memory.read m y :=
  read_write_from m 0 x y v h

theorem readBurst_length : ∀ (n : Nat) (m : Memory) (a : Addr24), (Memory.readBurst m a n).length = n
  | 0, _, _ => rfl
  | n + 1, m, a => by simp [Memory.readBurst, readBurst_length n]

end Sys2Proof.Machine
end

