-- ==== Sys2Proof/Laws/Invariant.lean ====
section
/-! SUPPORT. The invariant of Safety.lean through the acts that the frame lemmas do not cover: the swath's start and end, the
memory side, the notice unit, the close of an act, the restart, power, and the loads. -/

namespace Sys2Proof.Machine

/-- Whatever keeps the outer state keeps the invariant. -/
theorem PartInv.keeps {s t : State} (h : PartInv s) (k : Keeps s t) : PartInv t where
  sram := by rw [k.sram]; exact h.sram
  notices := k.notices h.notices
  gates := by rw [k.tracker]; exact h.gates
  owners := by rw [k.tracker]; exact h.owners
  opened := by rw [k.tracker, k.part]; exact h.opened
  pool := k.pool h.pool

/-- The invariant looks at five fields alone. -/
theorem PartInv.congr {s t : State} (h : PartInv s) (hm : t.sram = s.sram) (hn : t.notices = s.notices)
    (ht : t.tracker = s.tracker) (hp : t.part = s.part) (hq : t.pool = s.pool) : PartInv t where
  sram := by rw [hm]; exact h.sram
  notices := by rw [hn]; exact h.notices
  gates := by rw [ht]; exact h.gates
  owners := by rw [ht]; exact h.owners
  opened := by rw [ht, hp]; exact h.opened
  pool := by rw [hq]; exact h.pool

/-! ### Reset values -/

theorem get_replicate {α : Type} {n : Nat} (x : α) (i : Fin n) : (Vector.replicate n x)[i] = x := by
  simp

theorem chain_from (rec : Vector DebitRecord 64)
    (h : ∀ r : RecordIx, rec[r].link = if h : r.val + 1 < 64 then some ⟨r.val + 1, h⟩ else none) :
    ∀ n k : Nat, k + n = 64 → linked rec ((List.finRange 64).drop k) (if h : k < 64 then some ⟨k, h⟩ else none)
  | 0, k, hk => by
    have : k = 64 := by omega
    subst this
    have e : (List.finRange 64).drop 64 = [] := List.drop_eq_nil_of_le (by simp)
    rw [e]
    simp [linked]
  | n + 1, k, hk => by
    have hlt : k < 64 := by omega
    have ih := chain_from rec h n (k + 1) (by omega)
    have e : (List.finRange 64).drop k = ⟨k, hlt⟩ :: (List.finRange 64).drop (k + 1) := by
      rw [List.drop_eq_getElem_cons (by simpa using hlt)]
      simp
    rw [e]
    refine ⟨by simp [hlt], ?_⟩
    rw [h ⟨k, hlt⟩]
    exact ih

theorem partitioned_reset : DebitPool.reset.Partitioned := by
  have hl : ∀ r : RecordIx, DebitPool.reset.records[r].link = if h : r.val + 1 < 64 then some ⟨r.val + 1, h⟩ else none := by
    intro r; simp [DebitPool.reset]
  have hv : ∀ r : RecordIx, DebitPool.reset.records[r].volume = 0 := by intro r; simp [DebitPool.reset]
  have hs : ∀ r : RecordIx, DebitPool.reset.records[r].swath = 0 := by intro r; simp [DebitPool.reset]
  refine ⟨List.finRange 64, fun _ => [], fun _ => [], ⟨?_, ?_, ?_, ?_⟩, ?_, ?_, ?_, fun r _ => ⟨hv r, hs r⟩⟩
  · exact chain_from _ hl 64 0 rfl
  · decide
  · decide
  · simp [chainVolume, DebitPool.reset]
  · intro b
    have e : DebitPool.reset.pend[b] = Queue.empty := get_replicate _ _
    rw [e]; exact .empty _
  · intro b
    have e : DebitPool.reset.batch[b] = Queue.empty := get_replicate _ _
    rw [e]; exact .empty _
  · intro r
    simp [occurrences, List.count_eq_one_of_mem (List.nodup_finRange 64) (List.mem_finRange r)]

theorem shut_shutOutside (t : SwathTracker) : t.shut.shutOutside := fun _ b => ⟨get_replicate _ b, get_replicate _ b⟩

theorem shut_bound (t : SwathTracker) : t.shut.bound := fun b => by
  have e : t.shut.owner[b] = none := get_replicate _ b
  have g : t.shut.gate[b] = false := get_replicate _ b
  rw [e, g]; rfl

/-- A state whose five fields are at their power-on values, but for a canonical SRAM and a sound notice unit. -/
theorem PartInv.ofReset {s : State} (hm : s.sram.wf = true) (hn : s.notices.ok = true)
    (ht : s.tracker = SwathTracker.reset) (hq : s.pool = DebitPool.reset) : PartInv s where
  sram := hm
  notices := hn
  gates := by rw [ht]; exact shut_shutOutside SwathTracker.reset
  owners := by rw [ht]; exact shut_bound SwathTracker.reset
  opened := by rw [ht]; intro h; cases h
  pool := by rw [hq]; exact partitioned_reset

theorem noticesReset_ok : NoticeUnit.reset.ok = true := by decide

theorem restartNotices_ok (u : NoticeUnit) (h : u.ok = true) : u.restart.ok = true :=
  NoticeUnit.ok_congr rfl rfl .rfl h

/-! ### Power, the restart, the close of an act -/

theorem PartInv.losePower {s : State} : PartInv (losePower s) := .ofReset rfl noticesReset_ok rfl rfl

theorem PartInv.powerOn {s : State} : PartInv (powerOn s) := by
  unfold Sys2Proof.Machine.powerOn
  split
  · exact .ofReset rfl noticesReset_ok rfl rfl
  · exact .ofReset rfl noticesReset_ok rfl rfl

theorem cutLinkWrite_wf (s : State) (h : s.sram.wf = true) : (cutLinkWrite s).wf = true := by
  unfold cutLinkWrite
  split
  · split
    · exact wf_writeBurst _ _ _ h
    · exact h
  · exact h

theorem PartInv.restart {s : State} (h : PartInv s) : PartInv (restart s) :=
  .ofReset (cutLinkWrite_wf s h.sram) (restartNotices_ok _ h.notices) rfl rfl

/-- DRAINED in place of DRAIN, the rest of the invariant's fields as they were. -/
theorem PartInv.drained {s t : State} (h : PartInv s) (hp : s.part = .drain) (hm : t.sram = s.sram) (hn : t.notices = s.notices)
    (ht : t.tracker = s.tracker) (hq : t.pool = s.pool) : PartInv t where
  sram := by rw [hm]; exact h.sram
  notices := by rw [hn]; exact h.notices
  gates := by rw [ht]; exact h.gates
  owners := by rw [ht]; exact h.owners
  opened := by rw [ht]; intro o; have := h.opened o; rw [hp] at this; cases this
  pool := by rw [hq]; exact h.pool

theorem PartInv.enterDrained {s : State} (h : PartInv s) (hp : s.part = .drain) : PartInv (enterDrained s) := by
  unfold Sys2Proof.Machine.enterDrained
  dsimp only
  have h1 := (h.drained (t := { s with part := .drained, ctx := updAll s.ctx fun _ c => { c with absence := .stopped } })
    hp rfl rfl rfl rfl).keeps (keeps_post _ .drained none [] (by decide))
  split
  · exact h1
  · exact h1.restart

theorem PartInv.finish {s : State} (h : PartInv s) : PartInv (finish s) := by
  unfold Sys2Proof.Machine.finish
  dsimp only
  have h1 := h.keeps (keeps_writerTurn s false)
  split
  · rename_i hd
    refine h1.enterDrained ?_
    simp only [drainDone, Bool.and_eq_true, beq_iff_eq] at hd
    exact hd.1.1.1.1.1
  · exact h1

/-! ### The swath -/

theorem PartInv.swathStart {s : State} (h : PartInv s) (hp : s.part = .ready) : PartInv (swathStart s) := by
  unfold Sys2Proof.Machine.swathStart
  dsimp only
  refine PartInv.keeps ?_ ((keeps_forBays _ _ fun b t => keeps_stopFlush t b).trans (keeps_forBays _ _ fun b t => keeps_judge t b))
  exact {
    sram := h.sram
    notices := h.notices
    gates := fun o => absurd rfl o
    owners := fun b => by simp
    opened := fun _ => hp
    pool := h.pool }

/-- After a swath end every gate is shut, and the part state and tracker state are as before. -/
theorem swathEnd_tracker (s : State) :
    (swathEnd s).tracker = { s.tracker with limit := .stopped, gate := .replicate 8 false, owner := .replicate 8 none } := by
  unfold Sys2Proof.Machine.swathEnd
  dsimp only
  rw [(keeps_forBays _ judge fun b t => keeps_judge t b).tracker,
    (keeps_forBays _ startFlush fun b t => keeps_startFlush t b).tracker]
  dsimp only
  rw [(keeps_forBays _ handover fun b t => keeps_handover t b).tracker]
  rfl

theorem swathEnd_part (s : State) : (swathEnd s).part = s.part := by
  unfold Sys2Proof.Machine.swathEnd
  dsimp only
  rw [(keeps_forBays _ judge fun b t => keeps_judge t b).part,
    (keeps_forBays _ startFlush fun b t => keeps_startFlush t b).part]
  dsimp only
  rw [(keeps_forBays _ handover fun b t => keeps_handover t b).part]

theorem PartInv.stopLimit {s : State} (h : PartInv s) : PartInv { s with tracker := { s.tracker with limit := .stopped } } where
  sram := h.sram
  notices := h.notices
  gates := h.gates
  owners := h.owners
  opened := h.opened
  pool := h.pool

/-- Every gate is shut, the tracker's state as it was. -/
theorem PartInv.shutGates {u : State} (h : PartInv u) : PartInv { u with tracker := u.tracker.shut } where
  sram := h.sram
  notices := h.notices
  gates := shut_shutOutside u.tracker
  owners := shut_bound u.tracker
  opened := h.opened
  pool := h.pool

theorem PartInv.swathEnd {s : State} (h : PartInv s) : PartInv (swathEnd s) := by
  unfold Sys2Proof.Machine.swathEnd
  dsimp only
  refine PartInv.keeps ?_ ((keeps_forBays _ _ fun b t => keeps_startFlush t b).trans (keeps_forBays _ _ fun b t => keeps_judge t b))
  exact (h.stopLimit.keeps (keeps_forBays _ handover fun b t => keeps_handover t b)).shutGates

/-- A tracker state other than OPEN over gates that are all shut. -/
theorem PartInv.trackerShut {u : State} (h : PartInv u) (hg : u.tracker.gate = .replicate 8 false)
    (ho : u.tracker.owner = .replicate 8 none) (next : TrackerState) (hn : next ≠ .openSwath) :
    PartInv { u with tracker := { u.tracker with state := next } } where
  sram := h.sram
  notices := h.notices
  gates := fun _ b => by
    dsimp only
    rw [hg, ho]
    exact ⟨get_replicate _ b, get_replicate _ b⟩
  owners := h.owners
  opened := fun o => absurd o hn
  pool := h.pool


theorem PartInv.swathEndTo {s : State} (h : PartInv s) (next : TrackerState) (hn : next ≠ .openSwath) : PartInv (swathEndTo next s) := by
  unfold Sys2Proof.Machine.swathEndTo
  exact h.swathEnd.trackerShut (by rw [swathEnd_tracker]) (by rw [swathEnd_tracker]) next hn

theorem PartInv.swathForcedEnd {s : State} (h : PartInv s) : PartInv (swathForcedEnd s) := by
  unfold Sys2Proof.Machine.swathForcedEnd
  split
  · exact h.swathEndTo _ (by decide)
  · exact h

theorem PartInv.swathRises {s : State} (h : PartInv s) : PartInv (swathRises s) := by
  unfold Sys2Proof.Machine.swathRises
  split
  · rename_i c; exact h.swathStart c.2
  · exact h

/-- The tracker leaves WAIT_LOW. -/
theorem PartInv.trackerIdle {s : State} (h : PartInv s) (o : s.tracker.state ≠ .openSwath) (next : TrackerState)
    (hn : next ≠ .openSwath) : PartInv { s with tracker := { s.tracker with state := next } } where
  sram := h.sram
  notices := h.notices
  gates := fun _ => h.gates o
  owners := h.owners
  opened := fun x => absurd x hn
  pool := h.pool

theorem PartInv.swathFalls {s : State} (h : PartInv s) : PartInv (swathFalls s) := by
  unfold Sys2Proof.Machine.swathFalls
  split
  · exact h.swathEndTo _ (by decide)
  · rename_i e; exact h.trackerIdle (by rw [e]; decide) _ (by decide)
  · exact h

theorem PartInv.swathSplit {s : State} (h : PartInv s) : PartInv (swathSplit s) := by
  unfold Sys2Proof.Machine.swathSplit
  split
  · rename_i o _
    dsimp only
    exact (h.swathEnd.swathStart (by rw [swathEnd_part]; exact h.opened o)).keeps (keeps_post _ _ _ _ (by decide))
  · exact h

/-! ### The fire port and the swath memory -/

theorem arbServe_fields (s : State) : (arbServe s).sram = s.sram ∧ (arbServe s).notices = s.notices ∧
    (arbServe s).tracker = s.tracker ∧ (arbServe s).part = s.part ∧ (arbServe s).pool = s.pool := by
  unfold arbServe serveFire serveLink
  split <;> [exact ⟨rfl, rfl, rfl, rfl, rfl⟩; skip]
  split <;> (try split) <;> (try split) <;> exact ⟨rfl, rfl, rfl, rfl, rfl⟩

theorem PartInv.arbServe {s : State} (h : PartInv s) : PartInv (arbServe s) := by
  obtain ⟨a, b, c, d, e⟩ := arbServe_fields s
  exact h.congr a b c d e

theorem PartInv.portFree {s : State} (h : PartInv s) : PartInv (portFree s) :=
  (h.congr (t := { s with port := { s.port with use := .idle, linkService := none } }) rfl rfl rfl rfl rfl).arbServe

theorem PartInv.countByte {s : State} (h : PartInv s) (b : Bay) (v : Byte) : PartInv (countByte b v s).1 := by
  unfold Sys2Proof.Machine.countByte
  dsimp only
  split
  · exact h.congr rfl rfl rfl rfl rfl
  · refine PartInv.keeps ?_ (keeps_post _ .tallySaturated _ _ (by decide))
    exact h.congr rfl rfl rfl rfl rfl

theorem PartInv.meterPlane {s : State} (h : PartInv s) (b : Bay) (a : Addr24) (v : Byte) : PartInv (meterPlane b a v s).1 := by
  unfold Sys2Proof.Machine.meterPlane
  split
  · split
    · exact h.countByte b v
    · exact h
  · exact h.keeps (keeps_post _ _ _ _ (by decide))
  · exact h.keeps (keeps_post _ _ _ _ (by decide))

theorem PartInv.meterByte {s : State} (h : PartInv s) (a : Addr24) (v : Byte) : PartInv (meterByte a v s).1 := by
  unfold Sys2Proof.Machine.meterByte
  split <;> try exact h
  split
  · exact h.meterPlane _ _ _
  · exact h

theorem PartInv.fireByteRead {s : State} (h : PartInv s) : PartInv (fireByteRead s) := by
  unfold Sys2Proof.Machine.fireByteRead
  split
  · exact h
  · dsimp only
    split
    · exact PartInv.portFree ((h.meterByte _ _).congr rfl rfl rfl rfl rfl)
    · exact (h.meterByte _ _).congr rfl rfl rfl rfl rfl

theorem PartInv.burstOffered {s : State} (h : PartInv s) (a : Addr24) (n : Nat) : PartInv (burstOffered a n s) := by
  unfold Sys2Proof.Machine.burstOffered
  split
  · exact PartInv.arbServe (h.congr rfl rfl rfl rfl rfl)
  · exact h

theorem PartInv.linkBurstCompletes {s : State} (h : PartInv s) : PartInv (linkBurstCompletes s) := by
  unfold Sys2Proof.Machine.linkBurstCompletes
  split
  · exact h
  · rename_i l _
    dsimp only
    have h1 : PartInv (if l.write = true then { s with sram := Memory.writeBurst s.sram l.start l.data } else s) := by
      split
      · exact { sram := wf_writeBurst _ _ _ h.sram, notices := h.notices, gates := h.gates, owners := h.owners,
                opened := h.opened, pool := h.pool }
      · exact h
    refine PartInv.portFree ?_
    split
    · exact h1
    · exact h1.keeps (keeps_respond _ _ _)

/-! ### The carriage link -/

theorem PartInv.routeRequest {s : State} (h : PartInv s) (r : LinkRequest) : PartInv (routeRequest r s) := by
  unfold Sys2Proof.Machine.routeRequest
  split
  · exact PartInv.arbServe (h.congr rfl rfl rfl rfl rfl)
  · exact h.keeps (keeps_respond _ _ _)
  · exact h.keeps (keeps_passThrough _ _)
  · exact h.keeps (keeps_passThrough _ _)
  · exact h.keeps (keeps_answerNow _ _ _)

theorem PartInv.frameByte {s : State} (h : PartInv s) (v : Byte) : PartInv (frameByte v s) := by
  unfold Sys2Proof.Machine.frameByte
  split
  · exact h.keeps (keeps_modLink s _)
  · dsimp only
    split
    · exact h.keeps (keeps_modLink s _)
    · split
      · split
        · exact PartInv.routeRequest (h.keeps (keeps_modLink s _)) _
        · exact h.keeps (keeps_answerBadFrame s)
      · exact h.keeps (keeps_modLink s _)

theorem PartInv.linkByteArrives {s : State} (h : PartInv s) (v : Byte) : PartInv (linkByteArrives v s) := by
  unfold Sys2Proof.Machine.linkByteArrives
  split
  · exact h
  · split
    · exact h.keeps (keeps_overrunByte s)
    · exact h.keeps (keeps_overrunByte s)
    · exact h.frameByte v
    · split
      · exact h.keeps (keeps_modLink s _)
      · exact h.frameByte v

theorem PartInv.linkResets {s : State} (h : PartInv s) : PartInv (linkResets s) := by
  unfold Sys2Proof.Machine.linkResets
  have h1 : PartInv (linkSideReset s) := h.congr rfl rfl rfl rfl rfl
  exact h1.swathForcedEnd.finish

/-! ### The notice unit, the loads, the drain, the array -/

theorem frameSent_rest (s : State) : (frameSent s).sram = s.sram ∧ (frameSent s).tracker = s.tracker ∧
    (frameSent s).part = s.part :=
  ⟨(onlyNotices_frameSent s).sram, (onlyNotices_frameSent s).tracker, (onlyNotices_frameSent s).part⟩

theorem PartInv.frameSent {s : State} (h : PartInv s) : PartInv (frameSent s) := by
  have o := onlyNotices_frameSent s
  exact {
    sram := by rw [o.sram]; exact h.sram
    notices := frameSent_ok s h.notices
    gates := by rw [o.tracker]; exact h.gates
    owners := by rw [o.tracker]; exact h.owners
    opened := by rw [o.tracker, o.part]; exact h.opened
    pool := partitioned_congr o.poolRecords o.poolFree o.poolPend o.poolBatch h.pool }

/-- A change of part state while no swath is open. -/
theorem PartInv.partTo {s t : State} (h : PartInv s) (ho : s.tracker.state ≠ .openSwath) (hm : t.sram = s.sram)
    (hn : t.notices.ok = true) (ht : t.tracker = s.tracker) (hq : t.pool = s.pool) : PartInv t where
  sram := by rw [hm]; exact h.sram
  notices := hn
  gates := by rw [ht]; exact h.gates
  owners := by rw [ht]; exact h.owners
  opened := by rw [ht]; intro x; exact absurd x ho
  pool := by rw [hq]; exact h.pool

theorem PartInv.notOpen {s : State} (h : PartInv s) (hp : s.part ≠ .ready) : s.tracker.state ≠ .openSwath :=
  fun o => hp (h.opened o)

theorem PartInv.profileRead {s : State} (h : PartInv s) (img : List Byte) : PartInv (profileRead img s) := by
  unfold Sys2Proof.Machine.profileRead
  split
  · rename_i hp _
    have ho := h.notOpen (by rw [hp]; decide)
    split
    · exact PartInv.keeps (h.partTo (t := { s with part := .noProfile }) ho rfl h.notices rfl rfl)
        (keeps_post _ _ _ _ (by decide))
    · dsimp only
      exact h.partTo ho rfl (NoticeUnit.ok_congr rfl rfl .rfl h.notices) rfl rfl
  · exact h

theorem keeps_loadRegistry (un : List EntryIx) (hu : Bool) (s : State) : Keeps s (loadRegistry un hu s) := by
  unfold loadRegistry
  dsimp only
  split
  · exact keeps_registry s _
  · exact (keeps_registry s _).trans (keeps_post _ _ _ _ (by decide))

theorem PartInv.enterReady {s : State} (h : PartInv s) (hp : s.part ≠ .ready) : PartInv (enterReady s) := by
  unfold Sys2Proof.Machine.enterReady
  dsimp only
  have ho := h.notOpen hp
  have h2 := PartInv.keeps (h.partTo (t := { s with part := .ready, copies := s.accepted, accepted := none }) ho rfl h.notices
    rfl rfl) (keeps_post _ .ready none [] (by decide))
  have o2 : (post .ready none [] { s with part := .ready, copies := s.accepted, accepted := none }).tracker.state ≠
      .openSwath := by rw [post_tracker]; exact ho
  refine PartInv.keeps (h2.trackerIdle o2 _ ?_) (((keeps_forBays _ startFlush fun b t => keeps_startFlush t b).trans
    (keeps_forBays _ judge fun b t => keeps_judge t b)).trans (keeps_forBays _ _ fun b t => ?_))
  · split <;> decide
  · exact keeps_ite t _ (keeps_enterSettling t b) (.refl t)

theorem PartInv.registryLoaded {s : State} (h : PartInv s) (un : List EntryIx) (hu : Bool) : PartInv (registryLoaded un hu s) := by
  unfold Sys2Proof.Machine.registryLoaded
  split
  · rename_i hp _
    have k := keeps_loadRegistry un hu s
    have h1 := h.keeps k
    have p1 : (loadRegistry un hu s).part ≠ .ready := by rw [k.part, hp]; decide
    dsimp only
    split
    · exact PartInv.finish (h1.partTo (h1.notOpen p1) rfl h1.notices rfl rfl)
    · exact (h1.enterReady p1).finish
  · exact h

/-- The invariant but for `opened`: what an open swath keeps while the drain shuts it. -/
structure InvShutting (s : State) : Prop where
  sram : s.sram.wf = true
  notices : s.notices.ok = true
  pool : s.pool.Partitioned

theorem InvShutting.keeps {s t : State} (h : InvShutting s) (k : Keeps s t) : InvShutting t :=
  ⟨by rw [k.sram]; exact h.sram, k.notices h.notices, k.pool h.pool⟩

theorem InvShutting.tracker {u : State} (h : InvShutting u) (x : SwathTracker) : InvShutting { u with tracker := x } :=
  ⟨h.sram, h.notices, h.pool⟩

theorem InvShutting.swathEnd {s : State} (h : InvShutting s) : InvShutting (swathEnd s) := by
  unfold Sys2Proof.Machine.swathEnd
  dsimp only
  refine InvShutting.keeps ?_ ((keeps_forBays _ _ fun b t => keeps_startFlush t b).trans
    (keeps_forBays _ _ fun b t => keeps_judge t b))
  have h0 : InvShutting { s with tracker := { s.tracker with limit := .stopped } } := ⟨h.sram, h.notices, h.pool⟩
  exact (h0.keeps (keeps_forBays _ handover fun b t => keeps_handover t b)).tracker _

/-- A state with shut gates, whatever its part state, and a tracker that is not OPEN. -/
theorem InvShutting.inv {u : State} (h : InvShutting u) (hg : u.tracker.gate = .replicate 8 false)
    (ho : u.tracker.owner = .replicate 8 none) (next : TrackerState) (hn : next ≠ .openSwath) :
    PartInv { u with tracker := { u.tracker with state := next } } where
  sram := h.sram
  notices := h.notices
  gates := fun _ b => by
    dsimp only
    rw [hg, ho]
    exact ⟨get_replicate _ b, get_replicate _ b⟩
  owners := fun b => by
    dsimp only
    rw [hg, ho, get_replicate, get_replicate]
    rfl
  opened := fun o => absurd o hn
  pool := h.pool

theorem PartInv.drainForcedEnd {s : State} (h : PartInv s) : PartInv (Sys2Proof.Machine.swathForcedEnd { s with part := .drain }) := by
  unfold Sys2Proof.Machine.swathForcedEnd
  split
  · unfold Sys2Proof.Machine.swathEndTo
    have h0 : InvShutting { s with part := .drain } := ⟨h.sram, h.notices, h.pool⟩
    exact h0.swathEnd.inv (by rw [swathEnd_tracker]) (by rw [swathEnd_tracker]) _ (by decide)
  · rename_i o
    exact h.partTo o rfl h.notices rfl rfl

theorem keeps_drainRest (s : State) : Keeps s (linkDrainWaiting (dirtyInBay (forBays fold (forBays withdrawLink
    (forBays withdrawMark (forBays withdrawCommit (forBays drainBay s))))))) :=
  ((((((keeps_forBays _ drainBay fun b t => keeps_drainBay t b).trans
    (keeps_forBays _ withdrawCommit fun b t => keeps_withdrawCommit t b)).trans
    (keeps_forBays _ withdrawMark fun b t => keeps_withdrawMark t b)).trans
    (keeps_forBays _ withdrawLink fun b t => keeps_withdrawLink t b)).trans
    (keeps_forBays _ fold fun b t => keeps_fold t b)).trans (keeps_dirtyInBay _)).trans (keeps_linkDrainWaiting _)

theorem PartInv.enterDrain {s : State} (h : PartInv s) : PartInv (enterDrain s) := by
  unfold Sys2Proof.Machine.enterDrain
  exact h.drainForcedEnd.keeps (keeps_drainRest _)

theorem PartInv.writeReported {s : State} (h : PartInv s) (ok : Bool) (w : Snapshot) : PartInv (writeReported ok w s) := by
  unfold Sys2Proof.Machine.writeReported
  dsimp only
  split
  · split
    · exact h.congr rfl rfl rfl rfl rfl
    · refine PartInv.keeps ?_ (keeps_post _ .registryFault _ _ (by decide))
      exact h.congr rfl rfl rfl rfl rfl
  · split
    · exact h.congr rfl rfl rfl rfl rfl
    · refine PartInv.keeps ?_ (keeps_post _ .registryFault _ _ (by decide))
      exact h.congr rfl rfl rfl rfl rfl

theorem PartInv.writeEnds {s : State} (h : PartInv s) (ok : Bool) : PartInv (writeEnds ok s) := by
  unfold Sys2Proof.Machine.writeEnds
  split
  · exact h
  · exact ((h.writeReported ok _).keeps (keeps_writerTurn _ _)).finish

end Sys2Proof.Machine
end

