-- ==== Sys2Proof/Laws/Swath.lean ====
section
/-! SUPPORT. A swath start and a swath end as one update of each record (R49, R52). -/

namespace Sys2Proof.Machine

/-- An update of each bay's own commit context is one update of them all. -/
theorem foldl_modCommit (f : Bay → CommitContext → CommitContext) (l : List Bay) (s : State) :
    l.foldl (fun t b => t.modCommit b (f b)) s =
      { s with commits := l.foldl (fun w b => upd w b (f b)) s.commits } := by
  induction l generalizing s with
  | nil => rfl
  | cons b l ih => exact ih _

theorem forBays_modCommit (f : Bay → CommitContext → CommitContext) (s : State) :
    forBays (fun b t => t.modCommit b (f b)) s = { s with commits := updAll s.commits f } := by
  rw [forBays, foldl_modCommit, updAll_of_bays]

theorem forBays_stopFlush (s : State) :
    forBays stopFlush s = { s with commits := updAll s.commits fun _ c => { c with flush := .stopped } } :=
  forBays_modCommit (fun _ c => { c with flush := .stopped }) s

/-- The bays' updates taken one after another, each by the settings as they then stand, which none of them changes. -/
theorem foldl_modCommit_of_profile (f : Profile → Bay → CommitContext → CommitContext) (l : List Bay) (s : State) :
    l.foldl (fun t b => t.modCommit b (f t.profile b)) s = l.foldl (fun t b => t.modCommit b (f s.profile b)) s := by
  have h : ∀ (l : List Bay) (t : State), t.profile = s.profile →
      l.foldl (fun t b => t.modCommit b (f t.profile b)) t = l.foldl (fun t b => t.modCommit b (f s.profile b)) t := by
    intro l
    induction l with
    | nil => exact fun _ _ => rfl
    | cons b l ih =>
      intro t ht
      rw [List.foldl_cons, List.foldl_cons, ht]
      exact ih _ ht
  exact h l s rfl

theorem forBays_startFlush (s : State) :
    forBays startFlush s = { s with
      commits := updAll s.commits fun b c => { c with flush := .running (s.profile.bays[b].idleFlush * 100000) } } := by
  rw [← forBays_modCommit]
  exact foldl_modCommit_of_profile
    (fun p b c => { c with flush := .running (p.bays[b].idleFlush * 100000) }) allBays s

/-- R49. -/
theorem swathStart_eq (s : State) :
    swathStart s = forBays judge { s with
      tracker := { state := .openSwath, number := s.tracker.number + 1,
                   gate := Vector.ofFn fun b => (gateOwner s b).isSome, owner := Vector.ofFn fun b => gateOwner s b,
                   limit := .running (s.profile.swathLimitMs * 1000) }
      meter := DropMeter.reset
      commits := updAll s.commits fun _ c => { c with flush := .stopped } } := by
  unfold swathStart
  dsimp only
  rw [forBays_stopFlush]

/-- R52, with the handovers of R53 in ascending bay order. -/
theorem swathEnd_eq (s : State) :
    swathEnd s =
      let h := forBays handover { s with tracker := { s.tracker with limit := .stopped } }
      forBays judge { h with
        tracker := { h.tracker with gate := .replicate 8 false, owner := .replicate 8 none }
        commits := updAll h.commits fun b c => { c with flush := .running (s.profile.bays[b].idleFlush * 100000) } } := by
  have k := keeps_forBays { s with tracker := { s.tracker with limit := .stopped } } handover
    fun b t => keeps_handover t b
  unfold swathEnd
  dsimp only
  generalize forBays handover { s with tracker := { s.tracker with limit := .stopped } } = h at k ⊢
  have hp : { h with tracker := h.tracker.shut }.profile = s.profile := congrArg (Option.getD · Profile.blank) k.copies
  rw [forBays_startFlush, hp]
  rfl

end Sys2Proof.Machine
end

