-- ==== Sys2Proof/Tests/Slice0.lean ====
section
/-! SUPPORT. Tests on small states: operand ranges, the CRCs' check values, worked examples of the manual, one or two
tests for a command; and for each statement with hypotheses a state and operands that meet them, clause by clause. -/

namespace Sys2Proof.Tests

open Sys2Proof.Machine

-- One theorem after another: evaluated side by side they would take a thread each.
set_option Elab.async false

/-! ### Helpers -/

/-- The next state of an answer. -/
def after : Answer → State
  | .next t => t
  | .fault _ => State.reset
  | .refused _ => State.reset

/-- The answer is a next state. -/
def completes : Answer → Bool
  | .next _ => true
  | .fault _ => false
  | .refused _ => false

theorem next_after {o : Answer} (h : completes o = true) : o = .next (after o) := by
  cases o <;> first | rfl | cases h

/-- The plane table and weights of the example under R44, with a small policy. -/
def aProfile : Profile :=
  { makers := [7], baud := 1, printerId := 0xA1B2C3D4#32, swathLimitMs := 2000, saveInterval := 2, margin := 10,
    mask := BitVec.allOnes 32, planes := [⟨0x100000, 0x40000, 2, true⟩, ⟨0x140000, 0x40000, 2, true⟩],
    bays := .replicate 8 { ink := 1, lowMark := 10, small := 3000, medium := 6500, large := 11000, commitStep := 5,
                           idleFlush := 20 },
    policy := ⟨⟨.limit, 100, true⟩, ⟨.block, 0, true⟩, ⟨.block, 0, true⟩, ⟨.limit, 50, false⟩, ⟨.block, 0, false⟩⟩,
    keys := .replicate 4 0x11#128 }

/-- An identity image: serial 0x0807060504030201, maker 7, ink 1, key slot 0, capacity 1000 LU, format 1. -/
def anIdentity : List Byte :=
  [1, 2, 3, 4, 5, 6, 7, 8, 7, 0, 1, 0, 0xE8, 0x03, 0, 1] ++ List.replicate 48 0x00#8

/-- A level page: 500 LU, use count 9, check code of zeros. -/
def aLevel : List Byte := levelPage 500 9 0xA1B2C3D4#32 (List.replicate 8 0x00#8)

/-- A marks page: slot 0 written with REFILLED, the rest blank, the lock word with every bit 1. -/
def someMarks : List Byte := [0x01#8, 0xD4#8, 9, 0] ++ List.replicate 28 0xFF#8

/-- A part in READY with every bay EMPTY. -/
def ready : State := { State.reset with part := .ready, copies := some aProfile }

/-- Bay 0 in state `x`, its owner entry 5. -/
def seated (x : BayState) : State :=
  { ready with
    ctx := upd ready.ctx 0 fun c =>
      { c with state := x, owner := some 5, action := some .accept, identity := some anIdentity, level := some aLevel,
               marks := some someMarks }
    registry := { ready.registry with entries := upd ready.registry.entries 5 fun n =>
      { n with saved := { n.saved with valid := true, serial := pageSerial anIdentity, capacity := 1000,
                                       lastLevel := 500, lastUse := 9 }, inBay := some 0 } } }

/-- A seated bay in an open swath, its gate OPEN. -/
def swathing : State :=
  { seated .admitted with
    tracker := { state := .openSwath, number := 3, gate := upd (.replicate 8 false) 0 fun _ => true,
                 owner := upd (.replicate 8 none) 0 fun _ => some 5, limit := .running 2000000 } }

def aClaim (w : Claimant) (c : TagCommand) (page : Nat) : Claim :=
  { claimant := w, command := c, page := page, offset := 0, length := 32, data := List.replicate 32 0x00#8 }

/-- Bay 0's line in state `l`, on a transaction. -/
def onLine (l : LineState) (t : Transaction) (s : State) : State :=
  { s with lines := upd s.lines 0 fun u => { u with state := l, current := some t } }

def aTransaction (c : Claim) (p : Phase) : Transaction :=
  { claim := c, phase := p, isRepeat := false, retries := 0, storeSent := false, limitPassed := false }

/-- The commit of bay 0 in state `c`. -/
def committing (c : CommitState) (s : State) : State :=
  { s with commits := upd s.commits 0 fun x => { x with state := c } }

/-- The first 337 bytes of an image that R167 accepts: version 1, one maker, one enabled plane, eight bays of the same
settings, five policy rows, four keys. -/
def imageBytes : List Byte :=
  [1, 0, 1, 1] ++ toLE 4 0xA1B2C3D4 ++ toLE 2 2000 ++ [2, 10] ++ [7, 0, 0, 0, 0, 0, 0, 0] ++ toLE 4 (2 ^ 32 - 1) ++
    (toLE 3 0x100000 ++ toLE 4 0x40000 ++ [0x82#8]) ++ List.replicate 120 0x00#8 ++
    (List.replicate 8 ([1, 10] ++ toLE 2 3000 ++ toLE 2 6500 ++ toLE 2 11000 ++ toLE 2 5 ++ toLE 2 20)).flatten ++
    (List.replicate 5 ([1] ++ toLE 3 100 ++ [1#8])).flatten ++ List.replicate 64 0x11#8

/-- Those bytes with `d` put at offset `i`, and a CRC-32. -/
def imageWith (i : Nat) (d : List Byte) (crc : Nat) : List Byte := overwrite imageBytes i d ++ toLE 4 crc

def goodImage : List Byte := imageWith 0 [] 0x7DA7B1FA
def wrongVersion : List Byte := imageWith 0 [2] 0x22385178
/-- The second plane entry begins at the last address of the first. -/
def overlapping : List Byte := imageWith 0x020 (toLE 3 0x13FFFF ++ toLE 4 1 ++ [0x80#8]) 0x6C3F7FD7
/-- Bay 0's small weight is one above its medium weight. -/
def wrongWeights : List Byte := imageWith 0x09A (toLE 2 6501) 0x44AE1E08
/-- The overdraw margin is 51 per cent. -/
def wrongRange : List Byte := imageWith 0x00B [51] 0x5CC63143

/-! ### Operand ranges -/

theorem test_fireBurst_range : (Instr.fireBurst 0 0).wellFormed = false ∧ (Instr.fireBurst 0 1).wellFormed = true ∧
    (Instr.fireBurst 0 256).wellFormed = true ∧ (Instr.fireBurst 0 257).wellFormed = false := by decide

theorem test_profileReadDone_range : (Instr.profileReadDone []).wellFormed = false ∧
    (Instr.profileReadDone (List.replicate 340 0)).wellFormed = false ∧
    (Instr.profileReadDone (List.replicate 341 0)).wellFormed = true := by decide +kernel

theorem test_tagReply_range : (Instr.tagReply 0 ⟨[], true⟩).wellFormed = false ∧
    (Instr.tagReply 0 ⟨[0x60#8], true⟩).wellFormed = true := by decide

theorem test_illFormed_refused : exec (.fireBurst 0 0) ready = .refused (.notACommand "FIRE_BURST") ∧
    exec (.fireBurst 0 257) ready = .refused (.notACommand "FIRE_BURST") ∧
    exec (.profileReadDone []) State.reset = .refused (.notACommand "PROFILE_READ_DONE") ∧
    exec (.tagReply 0 ⟨[], true⟩) ready = .refused (.notACommand "TAG_REPLY") := ⟨rfl, rfl, rfl, rfl⟩

/-! ### The layouts -/

/-- The bytes of "123456789". -/
def checkBytes : List Byte := [0x31, 0x32, 0x33, 0x34, 0x35, 0x36, 0x37, 0x38, 0x39]

theorem test_crc_check_values : crc8 checkBytes = 0xF7#8 ∧ crc16 checkBytes = 0x29B1#16 ∧
    crc32 checkBytes = 0xCBF43926#32 := by decide +kernel

theorem test_image_crcs : (crc32 (goodImage.take 337)).toNat = field goodImage 337 4 ∧
    (crc32 (wrongVersion.take 337)).toNat = field wrongVersion 337 4 ∧
    (crc32 (overlapping.take 337)).toNat = field overlapping 337 4 ∧
    (crc32 (wrongWeights.take 337)).toNat = field wrongWeights 337 4 ∧
    (crc32 (wrongRange.take 337)).toNat = field wrongRange 337 4 := by
  refine ⟨?_, ?_, ?_, ?_, ?_⟩ <;> decide +kernel

theorem test_profile_fields : goodImage.length = 341 ∧ (profileOf goodImage).makers = [7] ∧
    (profileOf goodImage).swathLimitMs = 2000 ∧ (profileOf goodImage).bays[(7 : Bay)].large = 11000 ∧
    (profileOf goodImage).planes.head? = some ⟨0x100000, 0x40000, 2, true⟩ ∧
    (profileOf goodImage).policy.overdrawn = ⟨.limit, 100, true⟩ := by decide +kernel

theorem test_profile_checks : planesFail (profileOf goodImage).planes = false ∧
    planesFail (profileOf overlapping).planes = true ∧
    planesFail (profileOf (imageWith 0x020 (toLE 3 0xFFFFFF ++ toLE 4 1 ++ [0x80#8]) 0)).planes = false ∧
    planesFail (profileOf (imageWith 0x020 (toLE 3 0xFFFFFF ++ toLE 4 2 ++ [0x80#8]) 0)).planes = true ∧
    planesFail (profileOf (imageWith 0x020 (toLE 3 0x140000 ++ toLE 4 1 ++ [0x80#8]) 0)).planes = false ∧
    weightsFail (profileOf goodImage) = false ∧ weightsFail (profileOf wrongWeights) = true ∧
    rangeFails goodImage (profileOf goodImage) = false ∧ rangeFails wrongRange (profileOf wrongRange) = true := by
  decide +kernel

theorem test_level_page : aLevel.length = 32 ∧ pageLevel aLevel = 500 ∧ pageUse aLevel = 9 ∧
    pageStamp aLevel = 0xA1B2C3D4#32 := by decide +kernel

theorem test_request_frames : (aClaim .admission .peek 3).request =
      (let body : List Byte := [0x11, 3, 0, 32]; body ++ [crc8 body]) ∧
    (aClaim .commit .store 2).request.length = 37 ∧ (aClaim .commit .store 2).poll.length = 5 ∧
    ({ write := false, space := .supply, addr := 0x000420#24, len := 64, data := [] } : LinkRequest).frame.take 5 =
      [0xC2, 0x20, 0x04, 0x00, 63] := by decide +kernel

theorem test_notice_frame : ({ kind := .poolStarved, bay := some 2, repeats := 3, payload := [4], sending := false } :
      Notice).frame.take 6 = [0xA5, 0x12, 2, 3, 1, 4] ∧
    ({ kind := .ready, bay := none, repeats := 1, payload := [], sending := false } : Notice).frame.take 5 =
      [0xA5, 0x01, 0x0F, 1, 0] := by decide +kernel

/-- 0xA5 goes out as 1 0 1 0 0 1 0 1, least significant bit first; a frame takes ten bits a byte; the line rests with no
frame (R162). -/
theorem test_notice_bits :
    byteBits 0xA5#8 = [.start, .data true, .data false, .data true, .data false, .data false, .data true, .data false,
      .data true, .stop] ∧
    NoticeUnit.reset.onLine = .resting ∧
    (let n : Notice := { kind := .ready, bay := none, repeats := 1, payload := [], sending := true }
     let u : NoticeUnit := { NoticeUnit.reset with queue := [n], transmitter := .sending 57600 }
     u.onLine = .carrying 57600 (serialBits n.frame) ∧ (serialBits n.frame).length = 60 ∧
       ((serialBits n.frame).drop 10).take 10 = byteBits 0x01#8) := by decide +kernel

/-- A genuine tag clears bits outside page 2, refuses a written mark and the identity pages, and takes a level page
whole (R6). -/
theorem test_genuine_tag :
    let mem : TagMemory := upd (upd (.replicate 32 (List.replicate 32 0xF0#8)) 2 fun _ => aLevel) 3 fun _ => someMarks
    tagRefuses mem 0 0 [0] = true ∧ tagRefuses mem 3 0 [0] = true ∧ tagRefuses mem 3 4 [0] = false ∧
      (tagPrograms mem 7 0 [0x3C#8])[(7 : Fin 32)].head? = some 0x30#8 ∧
      (tagPrograms mem 2 0 [0xFF#8])[(2 : Fin 32)].head? = some 0xFF#8 := by decide +kernel

/-! ### Commands, each on a small state -/

/-- The example under R44: four bytes across two planes. -/
theorem test_meter_example :
    let s : State := { ready with
      tracker := { state := .openSwath, number := 1, gate := upd (.replicate 8 false) 2 fun _ => true,
                   owner := upd (.replicate 8 none) 2 fun _ => some 5, limit := .running 2000000 }
      meter := { tally := upd (.replicate 8 0) 2 fun _ => 1000000, saturated := .replicate 8 false } }
    let r1 := meterByte 0x13FFFE#24 0x00 s
    let r2 := meterByte 0x13FFFF#24 0xE4 r1.1
    let r3 := meterByte 0x140000#24 0xFF r2.1
    let r4 := meterByte 0x140001#24 0x41 r3.1
    (r1.2, r2.2, r3.2, r4.2) = (0x00#8, 0xE4#8, 0xFF#8, 0x41#8) ∧ r1.1.meter.tally[(2 : Bay)] = 1000000 ∧
      r2.1.meter.tally[(2 : Bay)] = 1020500 ∧ r3.1.meter.tally[(2 : Bay)] = 1064500 ∧
      r4.1.meter.tally[(2 : Bay)] = 1070500 := by decide +kernel

theorem test_powerLoss : (after (exec .powerLoss swathing)).powered = false ∧
    (after (exec .powerLoss swathing)).tracker = SwathTracker.reset := by decide +kernel

theorem test_powerOnReset : (after (exec .powerOnReset { State.reset with powered := false, freeCount := 3 })).powered = true ∧
    (after (exec .powerOnReset { State.reset with powered := false, freeCount := 3 })).freeCount = 3 := by decide +kernel

theorem test_registryLoadDone :
    let s : State := { State.reset with loadPhase := .loadingRegistry, accepted := some aProfile }
    (after (exec (.registryLoadDone [] false) s)).part = .ready ∧
      (after (exec (.registryLoadDone [] false) s)).registry.write ≠ none := by decide +kernel

theorem test_supplyFailAsserted : (after (exec .supplyFailAsserted swathing)).part = .drain ∧
    (after (exec .supplyFailAsserted ready)).part = .drained := by decide +kernel

theorem test_supplyFailDeasserted :
    let s : State := { ready with part := .drained, pins := { ready.pins with supplyFail := true } }
    (after (exec .supplyFailDeasserted s)).part = .loading := by decide +kernel

theorem test_linkReset : (after (exec .linkReset swathing)).tracker.state = .waitLow ∧
    (after (exec .resetNDeasserted (after (exec .linkReset ready)))).pins.resetN = false := by decide +kernel

theorem test_presence : (after (exec (.presenceAsserted 0) ready)).ctx[(0 : Bay)].settle = .running 50000 ∧
    (after (exec (.presenceDropped 0) (seated .admitted))).ctx[(0 : Bay)].absence = .running 2000 := by decide +kernel

theorem test_settleTimerExpiry :
    let s := after (exec (.settleTimerExpiry 0) (after (exec (.presenceAsserted 0) ready)))
    s.ctx[(0 : Bay)].state = .identifying ∧ s.lines[(0 : Bay)].state = .request := by decide +kernel

theorem test_absenceTimerExpiry :
    let s := after (exec (.absenceTimerExpiry 0) (after (exec (.presenceDropped 0) (seated .admitted))))
    s.ctx[(0 : Bay)] = BayContext.reset ∧ s.registry.entries[(5 : EntryIx)].inBay = none ∧
      (s.notices.queue.map fun n => n.kind) = [.bayDeparted] := by decide +kernel

theorem test_swathRise :
    let s := after (exec .swathRise (seated .admitted))
    s.tracker.number = 1 ∧ s.tracker.gate[(0 : Bay)] = true ∧ s.tracker.gate[(1 : Bay)] = false := by decide +kernel

theorem test_swathFall :
    let s := after (exec .swathFall { swathing with meter := { swathing.meter with
      tally := upd swathing.meter.tally 0 fun _ => 7000 } })
    s.tracker.state = .noSwath ∧ s.pool.pend[(0 : Bay)].total = 7000 ∧ s.pool.free.count = 63 ∧
      s.pool.records[(0 : RecordIx)].swath = 3 := by decide +kernel

theorem test_swathLimitExpiry : (after (exec .swathLimitExpiry swathing)).tracker.number = 4 ∧
    ((after (exec .swathLimitExpiry swathing)).notices.queue.map fun n => n.payload) = [[4, 0]] := by decide +kernel

theorem test_fireBurst_and_fireByte :
    let s := after (exec (.fireBurst 0xFFFFFF#24 2) { ready with sram := [(0, 0x55#8), (0xFFFFFF, 0xAA#8)] })
    s.port.use = .fire ∧ (after (exec .fireByte s)).fire.returned = [0xAA#8] ∧
      (after (exec .fireByte (after (exec .fireByte s)))).fire.returned = [0x55#8] ∧
      (after (exec .fireByte (after (exec .fireByte s)))).port.use = .idle := by decide +kernel

theorem test_linkBurstDone :
    let l : LinkBurst := { write := true, start := 0xFFFFFF#24, len := 2, data := [1, 2], discarded := false }
    let s : State := { ready with port := { use := .link, linkClaim := none, runCount := 0, linkService := some l } }
    (after (exec .linkBurstDone s)).sram = [(0, 2#8), (0xFFFFFF, 1#8)] := by decide +kernel

theorem test_link_bytes :
    let s : State := { ready with link := { ready.link with badFrame := true, state := .receiving } }
    (after (exec (.linkFrameByte 0x77) ready)).link.badFrame = true ∧
      (after (exec .linkBadframeTimeout s)).link.state = .responding ∧
      (after (exec .linkResponseSent (after (exec .linkBadframeTimeout s)))).link.state = .idle ∧
      (after (exec .linkStall (after (exec (.linkFrameByte 0xC2) ready)))).link.state = .idle := by decide +kernel

theorem test_overrun :
    let s := after (exec (.linkOverrunByte 1) { ready with link := { ready.link with state := .responding } })
    s.link.overrun = true ∧ (after (exec .overrunQuietExpiry s)).link.overrun = false := by decide +kernel

/-- A READ of 4 bytes of bay 0's page 0, whole: it is answered from the identity image. -/
theorem test_linkRequest :
    let f := ({ write := false, space := .supply, addr := 0#24, len := 4, data := [] } : LinkRequest).frame
    let s : State := { seated .admitted with link := { ready.link with state := .receiving, buffer := f.take 6 } }
    (after (exec (.linkRequest (f.getD 6 0)) s)).link.outstanding.bind (fun t => t.response) =
      some { status := .done, data := [1, 2, 3, 4] } := by decide +kernel

theorem test_tag_line :
    let s := onLine .request (aTransaction (aClaim .admission .peek 0) .first) (seated .identifying)
    let q := after (exec (.quietWaitElapsed 0) s)
    q.lines[(0 : Bay)].sending = true ∧ (after (exec (.requestSent 0) q)).lines[(0 : Bay)].replyTimer = .running 2000 ∧
      (after (exec (.tagStrayByte 0) (after (exec (.quietWaitElapsed 0) ready)))).lines[(0 : Bay)].quiet = false := by
  decide +kernel

theorem test_tagReply :
    let s := onLine .awaitReply (aTransaction (aClaim .admission .peek 0) .first) (seated .identifying)
    let page : List Byte := anIdentity.take 32
    let t := after (exec (.tagReply 0 ⟨(0x60#8 :: page) ++ [crc8 (0x60#8 :: page)], true⟩) s)
    t.ctx[(0 : Bay)].heldPage = some page ∧
      (t.lines[(0 : Bay)].waiting.admission.isSome || t.lines[(0 : Bay)].current.isSome) = true := by decide +kernel

theorem test_replyTimeout :
    let s := onLine .awaitReply (aTransaction (aClaim .admission .peek 0) .first) (seated .identifying)
    let t := after (exec (.replyTimeout 0 false) s)
    t.lines[(0 : Bay)].state = .request ∧ (t.lines[(0 : Bay)].current.map fun x => x.retries) = some 1 := by decide +kernel

theorem test_polling :
    let s : State := { onLine .pollWait (aTransaction (aClaim .commit .store 2) .polling) (seated .admitted) with
      lines := upd (onLine .pollWait (aTransaction (aClaim .commit .store 2) .polling) (seated .admitted)).lines 0 fun u =>
        { u with pollTimer := .running 1000, limitTimer := .running 25000 } }
    (after (exec (.pollTimerExpiry 0) s)).lines[(0 : Bay)].state = .request ∧
      (after (exec (.completionLimitExpiry 0) s)).lines[(0 : Bay)].current = none := by decide +kernel

theorem test_proofServiceDone :
    let s := beginAttempt 0 (seated .identifying)
    (after (exec .proofServiceDone s)).proof.draws = 1 ∧
      (after (exec .proofServiceDone s)).ctx[(0 : Bay)].awaitLine = true ∧
      ((after (exec .proofServiceDone s)).proof.service.map fun r => r.requester) = some .admission := by
  refine ⟨?_, ?_, ?_⟩ <;> rfl

theorem test_idleFlushExpiry :
    let s : State := { seated .admitted with commits := upd ready.commits 0 fun c => { c with flush := .running 1 } }
    (after (exec (.idleFlushExpiry 0) s)).commits[(0 : Bay)].flush = .elapsed := by decide +kernel

theorem test_registryWriteComplete :
    let s : State := { ready with registry := { ready.registry with write := some (.header 1 0 (headerCheck 1 0)) } }
    (after (exec (.registryWriteComplete true) s)).array.header = .stored 1 0 (headerCheck 1 0) ∧
      (after (exec (.registryWriteComplete false) s)).registry.write ≠ none := by
  refine ⟨by decide +kernel, ?_⟩
  intro h
  cases h

theorem test_noticeFrameSent :
    let s := post .ready none [] ready
    s.notices.transmitter = .sending 115200 ∧ (after (exec .noticeFrameSent s)).notices.queue = [] := by decide +kernel

/-! ### The statements' hypotheses are met

One theorem for each statement that has hypotheses: a state and operands that meet all of a clause's hypotheses together. -/

theorem test_premises_StepRunsTheFrontCommand : ready.pending = [] := rfl

theorem test_premises_WellFormedCommandsComplete : (Instr.fireBurst 0 256).wellFormed = true ∧
    (Instr.fireBurst 0 257).wellFormed = false := by decide

def unpowered : State := { State.reset with powered := false }

theorem test_premises_PowerOnResetEntersLoading : unpowered.powered = false ∧ ready.powered = true ∧
    exec .powerLoss ready = .next (after (exec .powerLoss ready)) := ⟨rfl, rfl, rfl⟩

/-- The writer has a write in flight. -/
def writing (w : Snapshot) : State := { ready with registry := { ready.registry with write := some w } }

theorem test_premises_PowerLossKeepsOnlyTheArray : ready.powered = true ∧ ready.registry.write = none ∧
    (writing (.entry 47 Saved.blank 9)).registry.write = some (.entry 47 Saved.blank 9) ∧
    (writing (.header 1 0 9)).registry.write = some (.header 1 0 9) ∧ (0 : EntryIx) ≠ 47 := by decide +kernel

theorem test_premises_UnpoweredPartMovesOnlyItsLines : unpowered.powered = false ∧ Instr.swathRise ≠ .powerOnReset ∧
    Instr.swathRise.wellFormed = true := by decide +kernel

theorem test_premises_ProfileReadAcceptsOrRefuses : State.reset.powered = true ∧ State.reset.part = .loading ∧
    State.reset.loadPhase = .readingProfile ∧ goodImage.length = 341 ∧ profileFault goodImage = none ∧
    profileFault (goodImage.set 340 0) = some .crc := by
  refine ⟨rfl, rfl, rfl, ?_, ?_, ?_⟩ <;> decide +kernel

/-- Of planes of which only the first is enabled no two overlap. -/
theorem one_plane_alone {l : List PlaneEntry} (h : ∀ y ∈ l.drop 1, y.enabled = false) :
    ¬∃ i j : Nat, i < j ∧ j < 16 ∧ ∃ x y : PlaneEntry, l[i]? = some x ∧ l[j]? = some y ∧
      x.enabled = true ∧ y.enabled = true ∧ x.base < y.base + y.length ∧ y.base < x.base + x.length := by
  rintro ⟨i, j, hij, -, x, y, -, hy, -, hen, -⟩
  have hm : y ∈ l.drop 1 := by
    rw [List.mem_iff_getElem?]
    refine ⟨j - 1, ?_⟩
    rw [List.getElem?_drop, ← hy]
    congr 1
    omega
  rw [h y hm] at hen
  exact Bool.noConfusion hen

/-- The CRC's clause; the four images after it, whose CRCs test_image_crcs shows, are right in all that the checks before
their own look at, and the last passes every check. -/
theorem test_premises_ProfileChecksInOrder :
    ((List.replicate 341 0xFF#8).length = 341 ∧
      (crc32 ((List.replicate 341 0xFF#8).take 337)).toNat ≠ field (List.replicate 341 0xFF#8) 337 4) ∧
    (wrongVersion.length = 341 ∧ field wrongVersion 0 2 ≠ 1) ∧
    (overlapping.length = 341 ∧ ¬field overlapping 0 2 ≠ 1 ∧
      ∃ x y : PlaneEntry, (profileOf overlapping).planes[0]? = some x ∧ (profileOf overlapping).planes[1]? = some y ∧
        x.enabled = true ∧ y.enabled = true ∧ x.base < y.base + y.length ∧ y.base < x.base + x.length) ∧
    (wrongWeights.length = 341 ∧ ¬field wrongWeights 0 2 ≠ 1 ∧
      (∀ y ∈ (profileOf wrongWeights).planes.drop 1, y.enabled = false) ∧
      ¬(∃ x ∈ (profileOf wrongWeights).planes, x.enabled = true ∧ (0xFFFFFF < x.base + x.length - 1 ∨ x.length = 0)) ∧
      (profileOf wrongWeights).bays[(0 : Bay)].medium < (profileOf wrongWeights).bays[(0 : Bay)].small) ∧
    (wrongRange.length = 341 ∧ ¬field wrongRange 0 2 ≠ 1 ∧
      (∀ y ∈ (profileOf wrongRange).planes.drop 1, y.enabled = false) ∧
      ¬(∃ x ∈ (profileOf wrongRange).planes, x.enabled = true ∧ (0xFFFFFF < x.base + x.length - 1 ∨ x.length = 0)) ∧
      ¬(∃ b : Bay, (profileOf wrongRange).bays[b].medium < (profileOf wrongRange).bays[b].small ∨
        (profileOf wrongRange).bays[b].large < (profileOf wrongRange).bays[b].medium ∨
        ((profileOf wrongRange).bays[b].large = 0 ∧ ∃ x ∈ (profileOf wrongRange).planes, x.enabled = true ∧ x.bay = b)) ∧
      50 < (profileOf wrongRange).margin) ∧
    goodImage.length = 341 ∧ ¬field goodImage 0 2 ≠ 1 ∧
      (∀ y ∈ (profileOf goodImage).planes.drop 1, y.enabled = false) ∧
      ¬(∃ x ∈ (profileOf goodImage).planes, x.enabled = true ∧ (0xFFFFFF < x.base + x.length - 1 ∨ x.length = 0)) ∧
      ¬(∃ b : Bay, (profileOf goodImage).bays[b].medium < (profileOf goodImage).bays[b].small ∨
        (profileOf goodImage).bays[b].large < (profileOf goodImage).bays[b].medium ∨
        ((profileOf goodImage).bays[b].large = 0 ∧ ∃ x ∈ (profileOf goodImage).planes, x.enabled = true ∧ x.bay = b)) ∧
      ¬((∃ b : Bay, (profileOf goodImage).bays[b].commitStep < 1 ∨ 10000 < (profileOf goodImage).bays[b].commitStep ∨
          (profileOf goodImage).bays[b].idleFlush < 5 ∨ 600 < (profileOf goodImage).bays[b].idleFlush ∨
          100 < (profileOf goodImage).bays[b].lowMark) ∨
        50 < (profileOf goodImage).margin ∨ (profileOf goodImage).swathLimitMs < 100 ∨
        10000 < (profileOf goodImage).swathLimitMs ∨ (profileOf goodImage).saveInterval < 1 ∨
        255 < (profileOf goodImage).saveInterval ∨ 4 < field goodImage 2 1 ∨
        (∃ i : Nat, i < 5 ∧ 2 < field goodImage (0x0F8 + 5 * i) 1) ∨ 3 < field goodImage 3 1) := by
  refine ⟨?_, by decide +kernel, ⟨by decide +kernel, by decide +kernel, ⟨0x100000, 0x40000, 2, true⟩,
    ⟨0x13FFFF, 1, 0, true⟩, by decide +kernel⟩, ?_, ?_, ?_⟩ <;> decide +kernel

/-- A maker in the list, and a policy row of each action code. -/
theorem test_premises_ProfileChecksInOrder_fields : 0 < (profileOf goodImage).makers.length ∧
    (imageWith 0x0F8 [0] 0).length = 341 ∧ field (imageWith 0x0F8 [0] 0) 0x0F8 1 = 0 ∧
    field goodImage (0x0F8 + 5 * 4) 1 = 1 ∧ (imageWith 0x0FD [2] 0).length = 341 ∧
    field (imageWith 0x0FD [2] 0) (0x0F8 + 5 * 1) 1 = 2 := by decide +kernel

/-- The registry load is about to end. -/
def loaded (supplyFail : Bool) : State :=
  { State.reset with loadPhase := .loadingRegistry, accepted := some aProfile,
                     pins := { State.reset.pins with supplyFail := supplyFail } }

theorem test_premises_RegistryLoadEntersReadyOrDrain : (loaded false).powered = true ∧ (loaded false).part = .loading ∧
    (loaded false).loadPhase = .loadingRegistry ∧ (loaded false).pins.supplyFail = false ∧
    (∀ b : Bay, (loaded false).ctx[b] = BayContext.reset) ∧
    (loaded true).loadPhase = .loadingRegistry ∧ (loaded true).pins.supplyFail = true := by decide +kernel

/-- An array with two slots of one serial, a slot whose check is wrong, a torn one, and one that is not valid. -/
def anArray : State :=
  let v : Saved := { Saved.blank with valid := true, serial := 77, lastSeen := 4 }
  let w : Saved := { v with lastSeen := 5 }
  { ready with array := {
      slots := upd (upd (upd (upd (upd (.replicate 48 .erased) 4 fun _ => .stored Saved.blank 0) 0 fun _ => .stored v (entryCheck 0 v)) 47
        fun _ => .stored w (entryCheck 47 w)) 1 fun _ => .stored v (entryCheck 1 v + 1)) 2 fun _ => .torn
      header := .stored 9 3 (headerCheck 9 3) } }

/-- The erased slot, the torn, unreadable and wrong ones, the two of one serial, and the header. -/
theorem test_premises_LoadJudgesEachSlot :
    let v : Saved := { Saved.blank with valid := true, serial := 77, lastSeen := 4 }
    let w : Saved := { v with lastSeen := 5 }
    ((3 : EntryIx) ∉ ([] : List EntryIx) ∧ anArray.array.slots[(3 : EntryIx)] = .erased) ∧
    ((3 : EntryIx) ∈ [(3 : EntryIx)] ∧ anArray.array.slots[(2 : EntryIx)] = .torn ∧
      anArray.array.slots[(1 : EntryIx)] = .stored v (entryCheck 1 v + 1) ∧ entryCheck 1 v + 1 ≠ entryCheck 1 v) ∧
    (anArray.array.slots[(47 : EntryIx)] = .stored w (entryCheck 47 w) ∧ w.valid = true ∧
      anArray.array.slots[(0 : EntryIx)] = .stored v (entryCheck 0 v) ∧ v.valid = true ∧ w.serial = v.serial ∧
      v.lastSeen < w.lastSeen) ∧
    (loadRegistry [] false anArray).registry.entries[(47 : EntryIx)].saved.valid = true ∧
    State.reset.array.header = .erased ∧ anArray.array.header = .stored 9 3 (headerCheck 9 3) := by decide +kernel

/-- A stored slot that is not valid; a header whose check does not match, one that does, and no header; the greatest last
seen of the loaded entries, and 0 where none is loaded. -/
theorem test_premises_LoadJudgesEachSlot_header :
    (anArray.array.slots[(4 : EntryIx)] = .stored Saved.blank 0 ∧ Saved.blank.valid = false) ∧
    headerCheck 9 3 + 1 ≠ headerCheck 9 3 ∧ State.reset.array.header ≠ .torn ∧
    (let r := (loadRegistry [] false anArray).registry
     (∀ e : EntryIx, r.entries[e].saved.valid = true → r.entries[e].saved.lastSeen ≤ 5) ∧
       r.entries[(47 : EntryIx)].saved.valid = true ∧ r.entries[(47 : EntryIx)].saved.lastSeen = 5) ∧
    ∀ e : EntryIx, (loadRegistry [] false State.reset).registry.entries[e].saved.valid = true →
      (loadRegistry [] false State.reset).registry.entries[e].saved.lastSeen ≤ 0 := by decide +kernel

/-- What the slot holds, if anything, was last seen before `n`. -/
def seenBelow (n : Nat) : StoredSlot → Bool
  | .stored u _ => decide (u.lastSeen < n)
  | .erased => true
  | .torn => true

/-- The slot that the load keeps meets the premise over every other slot. -/
theorem test_premises_LoadJudgesEachSlot_kept :
    let w : Saved := { Saved.blank with valid := true, serial := 77, lastSeen := 5 }
    ∀ (f : EntryIx) (u : Saved), f ≠ 47 → anArray.array.slots[f] = .stored u (entryCheck f u) → u.valid = true →
      u.serial = w.serial → u.lastSeen < w.lastSeen := by
  intro w f u hf hs hv hk
  have h : ∀ g : EntryIx, g ≠ 47 → seenBelow 5 anArray.array.slots[g] = true := by decide +kernel
  have hf' := h f hf
  rw [hs] at hf'
  exact of_decide_eq_true hf'

/-! #### Supply failure and the writer -/

def failing (p : PartState) : State := { ready with part := p, pins := { ready.pins with supplyFail := true } }

theorem test_premises_SupplyFailInReadyEntersDrain : ready.powered = true ∧ ready.part = .ready ∧
    ready.tracker.shutOutside ∧ swathing.powered = true ∧ swathing.part = .ready ∧ swathing.tracker.shutOutside ∧
    (seated .checking).ctx[(0 : Bay)].state.inAdmission = true ∧ (seated .faulted).ctx[(0 : Bay)].owner ≠ none := by
  refine ⟨rfl, rfl, fun _ => ?_, rfl, rfl, fun h => absurd rfl h, rfl, ?_⟩
  · decide +kernel
  · decide +kernel

/-- Each of the clauses about a burst in service has one. -/
def failingBusy : State :=
  { failing .drained with
    fire := { service := some ⟨0, 256⟩, waiting := [], returned := [] }
    port := { use := .fire, linkClaim := none, linkService := some ⟨true, 0, 1, [7], false⟩, runCount := 0 } }

theorem test_premises_SupplyFailElsewhereAndReturn : State.reset.powered = true ∧ State.reset.part ≠ .ready ∧
    State.reset.part ≠ .drained ∧ (failing .drained).powered = true ∧ (failing .drained).part = .drained ∧
    (failing .drained).fire.service = none ∧ (failing .drained).port.linkService = none ∧
    failingBusy.part = .drained ∧ failingBusy.fire.service = some ⟨0, 256⟩ ∧
    failingBusy.port.linkService = some ⟨true, 0, 1, [7], false⟩ := by decide +kernel

theorem test_premises_DrainedOnlyWhenAllIsSaved :
    let s : State := { failing .drain with pending := [.proofServiceDone] }
    step s = .next (after (step s)) ∧ s.part ≠ .drained ∧ (after (step s)).part = .drained :=
  ⟨next_after (by decide +kernel), by decide +kernel, by decide +kernel⟩

/-- A DRAINED part with a command waiting has the invariant of DRAINED, and its step stays there. -/
theorem test_premises_DrainedOnlyWhenAllIsSaved_stays :
    let s : State := { failing .drained with pending := [.swathFall] }
    DrainInv s ∧ step s = .next (after (step s)) ∧ s.part = .drained ∧ (after (step s)).part = .drained := by
  refine ⟨⟨fun _ => by decide +kernel, fun _ => by decide +kernel, fun _ => ?_, fun _ => by decide +kernel,
    fun _ => by decide +kernel⟩, next_after (by decide +kernel), rfl, by decide +kernel⟩
  unfold State.saved
  decide +kernel

/-- The registry with the given entries dirty, and its header. -/
def dirty (es : List EntryIx) (header : Bool) (position : EntryIx) : Registry :=
  { Registry.reset with position := position, header := { Registry.reset.header with dirty := header },
                        entries := Vector.ofFn fun e => { Entry.blank with dirty := es.contains e } }

/-- The first entry after the position, at position 47 and at position 46; the header after an entry; nothing. -/
theorem test_premises_WriterChooses :
    ((dirty [3] true 0).header.dirty = true) ∧
    (¬((dirty [3, 0] true 47).header.dirty = true ∧ false = true) ∧ (dirty [3, 0] true 47).entries[(0 : EntryIx)].dirty = true ∧
      ∀ f : EntryIx, (dirty [3, 0] true 47).entries[f].dirty = true →
        ((0 : EntryIx).val + 47 - (dirty [3, 0] true 47).position.val) % 48 ≤
          (f.val + 47 - (dirty [3, 0] true 47).position.val) % 48) ∧
    ((dirty [46, 47] false 46).entries[(47 : EntryIx)].dirty = true ∧
      ∀ f : EntryIx, (dirty [46, 47] false 46).entries[f].dirty = true →
        ((47 : EntryIx).val + 47 - (dirty [46, 47] false 46).position.val) % 48 ≤
          (f.val + 47 - (dirty [46, 47] false 46).position.val) % 48) ∧
    (∀ e : EntryIx, (dirty [] true 0).entries[e].dirty = false) := by decide +kernel

theorem test_premises_WriterTurn_and_finish :
    (State.reset.part ≠ .ready ∧ State.reset.part ≠ .drain) ∧
    (ready.part = .ready ∧ ready.registry.write = none ∧
      Registry.choose (dirty [5] false 0) false = some (.entry 5) ∧ Registry.choose (dirty [] true 0) false = some .header) ∧
    (writerTurn false ready).part ≠ .drain ∧ (writerTurn false (failing .drain)).part = .drain ∧
    (writerTurn false (failing .drain)).saved := by
  refine ⟨by decide +kernel, by decide +kernel, by decide +kernel, by decide +kernel, ?_⟩
  unfold State.saved
  decide +kernel

theorem test_premises_RegistryWriteReported : ready.powered = true ∧ ready.registry.write = none ∧
    (writing (.entry 47 Saved.blank 9)).registry.write = some (.entry 47 Saved.blank 9) ∧
    (writing (.header 1 0 9)).registry.write = some (.header 1 0 9) := by decide +kernel

theorem test_premises_LinkResetAndResetN : ready.powered = true ∧ ready.tracker.state ≠ .openSwath ∧
    swathing.tracker.state = .openSwath ∧ (after (exec .linkReset ready)).powered = true ∧
    (after (exec .linkReset ready)).pins.resetN = true := by decide +kernel

/-! #### Bays -/

/-- The absence timer of bay 0 runs. -/
def absent (s : State) : State := { s with ctx := upd s.ctx 0 fun c => { c with absence := .running 2000 } }

theorem test_premises_PresenceEdgesAreDebounced : ready.powered = true ∧
    (ready.ctx[(0 : Bay)].state = .empty ∧ ready.part = .ready) ∧
    (State.reset.ctx[(7 : Bay)].state = .empty ∧ State.reset.part ≠ .ready) ∧
    ((seated .admitted).ctx[(0 : Bay)].state ≠ .empty ∧ (seated .admitted).ctx[(0 : Bay)].absence = .stopped) ∧
    ((absent (seated .settling)).ctx[(0 : Bay)].state = .settling ∧ (absent (seated .settling)).part = .ready ∧
      (absent (seated .settling)).ctx[(0 : Bay)].absence ≠ .stopped) ∧
    ((absent (seated .admitted)).ctx[(0 : Bay)].state ≠ .empty ∧ (absent (seated .admitted)).ctx[(0 : Bay)].state ≠ .settling ∧
      (absent (seated .admitted)).ctx[(0 : Bay)].absence ≠ .stopped) := by decide +kernel

/-- Bay 0 in SETTLING, its line in state `l`. -/
def settling (l : LineState) : State :=
  { after (exec (.presenceAsserted 0) ready) with lines := upd ready.lines 0 fun u => { u with state := l } }

theorem test_premises_SettleExpiryClaimsPageZero : (settling .idle).powered = true ∧
    (settling .idle).ctx[(0 : Bay)].state = .settling ∧ (settling .idle).ctx[(0 : Bay)].settle ≠ .stopped ∧
    (settling .idle).lines[(0 : Bay)].state = .idle ∧ (settling .idle).part ≠ .drain ∧ (settling .idle).part ≠ .drained ∧
    (settling .pollWait).ctx[(0 : Bay)].settle ≠ .stopped ∧ (settling .pollWait).lines[(0 : Bay)].state ≠ .idle ∧
    ready.ctx[(0 : Bay)].state ≠ .settling := by decide +kernel

/-- A departing bay with a commit in flight whose STORE was or was not sent whole. -/
def leaving (sent : Bool) : State :=
  onLine .pollWait { aTransaction (aClaim .commit .store 2) .polling with storeSent := sent }
    (committing .polling (absent (seated .admitted)))

/-- A link read of bay 0's page 4, not yet answered. -/
def aRead : LinkRequest := { write := false, space := .supply, addr := 0x000080#24, len := 4, data := [] }

def aWait : LinkTransaction := { request := some aRead, route := .passRead, waitsOrphan := false, response := none }

def asking (x : LinkTransaction) (s : State) : State :=
  { s with link := { s.link with state := .awaitingService, outstanding := some x } }

theorem test_premises_DepartureEmptiesTheBay :
    let s := asking aWait (leaving true)
    s.powered = true ∧ s.ctx[(0 : Bay)].state ≠ .empty ∧ s.ctx[(0 : Bay)].absence = .running 2000 ∧
      s.ctx[(0 : Bay)].owner ≠ none ∧ s.link.outstanding = some aWait ∧ aWait.request = some aRead ∧
      aRead.space = .supply ∧ aRead.addr.toNat < 8192 ∧ supplyBay aRead.addr = 0 ∧ aWait.response = none := by
  decide +kernel

theorem partitioned_ready : ready.pool.Partitioned := partitioned_reset

/-- A bay that departs without an owner. -/
def leavingUnowned : State :=
  absent { ready with ctx := upd ready.ctx 0 fun c => { c with state := .rejected } }

theorem test_premises_DepartureEmptiesTheBay_unowned : leavingUnowned.powered = true ∧
    leavingUnowned.ctx[(0 : Bay)].state ≠ .empty ∧ leavingUnowned.ctx[(0 : Bay)].absence = .running 2000 ∧
    ¬leavingUnowned.commits[(0 : Bay)].state ≠ .idle ∧ leavingUnowned.ctx[(0 : Bay)].owner = none := by decide +kernel

/-- Bay 0's commit, and its link claim, wait for the line. -/
def lineWaits (s : State) : State :=
  { s with lines := upd s.lines 0 fun u =>
    { u with waiting := { u.waiting with commit := some (aClaim .commit .store 2), link := some aRead.claim } } }

/-- A commit and a link transaction to be withdrawn, a transaction that waits for an orphan, and a bay whose commit runs
on. -/
theorem test_premises_SupplyFailInReadyEntersDrain_waiting :
    let s := lineWaits (asking aWait (committing .storing (seated .admitted)))
    (s.powered = true ∧ s.part = .ready ∧ s.tracker.shutOutside ∧ s.tracker.state ≠ .openSwath ∧ s.pool.Partitioned) ∧
    (s.lines[(0 : Bay)].waiting.commit ≠ none ∧ s.ctx[(0 : Bay)].state.inAdmission = false ∧
      s.ctx[(0 : Bay)].owner = some 5 ∧ (∀ c : Bay, s.ctx[c].owner = some 5 → c = 0) ∧
      s.registry.entries[(5 : EntryIx)].saved.debt + (s.pool.pend[(0 : Bay)].total + s.pool.carry[(0 : Bay)]) +
        (s.pool.batch[(0 : Bay)].total + s.commits[(0 : Bay)].batchCarry) ≤ 2 ^ 56 - 1) ∧
    (s.link.outstanding = some aWait ∧ aWait.response = none ∧ s.lines[(0 : Bay)].waiting.link ≠ none) ∧
    ({ aWait with waitsOrphan := true } : LinkTransaction).waitsOrphan = true ∧
    (seated .admitted).lines[(0 : Bay)].waiting.commit = none ∧
    (aWait.waitsOrphan = false ∧ ∀ b : Bay, (asking aWait (seated .admitted)).lines[b].waiting.link = none) :=
  ⟨⟨rfl, rfl, fun _ => by decide +kernel, by decide +kernel, partitioned_ready⟩, by decide +kernel, by decide +kernel,
    by decide +kernel, by decide +kernel, by decide +kernel⟩

/-- No commit in flight, a STORE not sent, and a STORE sent; then bays 2 and 1 hold lookups, bay 1 for the entry's serial. -/
theorem test_premises_DepartureFoldsTheBaysVolume :
    ((absent (seated .admitted)).pool.Partitioned ∧ (leaving true).pool.Partitioned) ∧
    (∀ s ∈ [absent (seated .admitted), leaving false, leaving true], s.powered = true ∧ s.ctx[(0 : Bay)].state ≠ .empty ∧
      s.ctx[(0 : Bay)].absence = .running 2000 ∧ s.ctx[(0 : Bay)].owner = some 5 ∧ s.registry.heldLookups = [] ∧
      s.registry.entries[(5 : EntryIx)].saved.debt + (s.pool.pend[(0 : Bay)].total + s.pool.carry[(0 : Bay)]) +
        (s.pool.batch[(0 : Bay)].total + s.commits[(0 : Bay)].batchCarry) ≤ 2 ^ 56 - 1) ∧
    (absent (seated .admitted)).commits[(0 : Bay)].state = .idle ∧ (leaving true).commits[(0 : Bay)].state ≠ .idle ∧
    (leaving false).lines[(0 : Bay)].commitStoreSent = false ∧ (leaving true).lines[(0 : Bay)].commitStoreSent = true ∧
    (let s := absent (seated .admitted)
     let h : State := { s with
       ctx := upd s.ctx 1 fun c => { c with state := .checking, identity := some anIdentity }
       registry := { s.registry with heldLookups := [2, 0, 1] } }
     (h.registry.heldLookups.filter fun d => d != 0) = [2] ++ 1 :: [] ∧
       pageSerial (h.ctx[(1 : Bay)].identity.getD []) = h.registry.entries[(5 : EntryIx)].saved.serial ∧
       pageSerial (h.ctx[(2 : Bay)].identity.getD []) ≠ h.registry.entries[(5 : EntryIx)].saved.serial) :=
  ⟨⟨partitioned_ready, partitioned_ready⟩, by decide +kernel, by decide +kernel, by decide +kernel, by decide +kernel,
    by decide +kernel, by decide +kernel⟩

/-- A seated bay with `v` fl in carry and its idle-flush timer in state `f`. -/
def carrying (v : Nat) (f : FlushTimer) : State :=
  { seated .admitted with
    pool := { ready.pool with carry := upd ready.pool.carry 0 fun _ => v }
    commits := upd ready.commits 0 fun c => { c with flush := f } }

theorem test_premises_IdleFlushElapsesAndJudges : (carrying 0 (.running 1)).powered = true ∧
    (∀ v ∈ [0, 1], (carrying v (.running 1)).commits[(0 : Bay)].flush = .running 1) ∧
    commitDue { carrying 0 (.running 1) with
      commits := upd (carrying 0 (.running 1)).commits 0 fun c => { c with flush := .elapsed } } 0 = none ∧
    commitDue { carrying 1 (.running 1) with
      commits := upd (carrying 1 (.running 1)).commits 0 fun c => { c with flush := .elapsed } } 0 = some 5 ∧
    ready.commits[(0 : Bay)].flush = .stopped := by decide +kernel

/-! #### Swaths -/

theorem test_premises_SwathRiseLatchesTheGates : (seated .admitted).powered = true ∧
    (seated .admitted).tracker.state = .noSwath ∧ (seated .admitted).part = .ready ∧
    (seated .admitted).ctx[(0 : Bay)].owner = some 5 ∧ (seated .admitted).ctx[(1 : Bay)].owner = none ∧
    State.reset.part ≠ .ready ∧ swathing.tracker.state ≠ .noSwath := by
  decide +kernel

/-- An open swath with every gate CLOSED, before and after its end. -/
def swathingClosed : State :=
  { swathing with tracker := { swathing.tracker with gate := .replicate 8 false, owner := .replicate 8 none } }

def swathEnded : State :=
  { swathingClosed with
    tracker := { SwathTracker.reset with number := 3 }
    commits := updAll ready.commits fun _ c => { c with flush := .running 2000000 } }

theorem test_premises_SwathFallEndsTheSwath : swathing.powered = true ∧ swathing.tracker.state = .openSwath ∧
    swathingClosed.tracker.state = .openSwath ∧ (∀ b : Bay, swathingClosed.tracker.gate[b] = false) ∧
    (∀ b : Bay, commitDue swathEnded b = none) ∧ (after (exec .linkReset swathing)).tracker.state = .waitLow ∧
    ready.tracker.state = .noSwath := by decide +kernel

/-- A gate CLOSED, and one OPEN whose owner is in its bay, and in none. -/
theorem test_premises_SwathFallEndsTheSwath_handover : swathing.tracker.gate[(1 : Bay)] = false ∧
    (swathing.tracker.gate[(0 : Bay)] = true ∧ swathing.tracker.owner[(0 : Bay)] = some 5) ∧
    ((judge 0 (drawAllowance 0 5 0 swathing)).ctx[(0 : Bay)].owner = some 5 ∧
      ∀ d : Bay, (judge 0 (drawAllowance 0 5 0 swathing)).ctx[d].owner = some 5 → d = 0) ∧
    (let s : State := { swathing with ctx := ready.ctx }
     s.tracker.gate[(0 : Bay)] = true ∧ s.tracker.owner[(0 : Bay)] = some 5 ∧
       ∀ c : Bay, (judge 0 (drawAllowance 0 5 0 s)).ctx[c].owner ≠ some 5) := by decide +kernel

theorem test_premises_SwathLimitSplitsTheSwath : swathing.powered = true ∧ swathing.tracker.state = .openSwath ∧
    swathing.tracker.limit = .running 2000000 ∧ ready.tracker.limit = .stopped := by decide +kernel

/-- A pool whose 64 records all wait in PENDING[0], holding nothing. -/
def allPending : DebitPool :=
  { DebitPool.reset with free := Queue.empty, pend := upd DebitPool.reset.pend 0 fun _ => DebitPool.reset.free }

theorem partitioned_allPending : allPending.Partitioned := by
  obtain ⟨f, pe, ba, hf, hp, hb, ho, -⟩ := partitioned_reset
  have hpe : ∀ b : Bay, pe b = [] := fun b => by
    have hc := (hp b).count
    rw [show DebitPool.reset.pend[b] = Queue.empty from get_replicate _ _] at hc
    exact List.eq_nil_of_length_eq_zero hc.symm
  refine ⟨[], fun b => if b = 0 then f else [], ba, .empty _, fun b => ?_, hb, fun r => ?_, by simp⟩
  · by_cases h : b = 0
    · subst h
      simp only [if_true]
      rw [show allPending.pend[(0 : Bay)] = DebitPool.reset.free from upd_self _ _ _]
      exact hf
    · rw [show allPending.pend[b] = Queue.empty from (upd_ne _ _ _ _ h).trans (get_replicate _ _)]
      simp only [if_neg h]
      exact .empty _
  · have hr := ho r
    simp only [occurrences, hpe] at hr ⊢
    rw [Finset.sum_eq_single (0 : Bay) (fun b _ hb => by rw [if_neg hb]; rfl) (by simp), if_pos rfl]
    simpa using hr

/-- The bay's carry and its owner entry's debt stand at 2^56 − 1 fl, and the written-off total at `w`. -/
def brimming (w : Nat) (s : State) : State :=
  { s with
    pool := { s.pool with carry := upd s.pool.carry 0 fun _ => 2 ^ 56 - 1 }
    registry := { s.registry with
      entries := upd s.registry.entries 5 fun n => { n with saved := { n.saved with debt := 2 ^ 56 - 1 } }
      header := { s.registry.header with writtenOff := w } } }

/-- 7 fl past 2^56 − 1 fl in carry and in debt, and a written-off total that 6 of them fill. -/
theorem test_overflow_is_written_off :
    (addCarry 0 7 (brimming 0 ready)).pool.carry[(0 : Bay)] = 2 ^ 56 - 1 ∧
    (addCarry 0 7 (brimming 0 ready)).registry.header.writtenOff = 7 ∧
    (placeTally 1 5 0 7 (brimming 9 (seated .admitted))).registry.header.writtenOff = 16 ∧
    (placeTally 0 5 0 7 (brimming (2 ^ 64 - 7) (failing .drain))).registry.header.writtenOff = 2 ^ 64 - 1 ∧
    (placeTally 0 5 0 7 (brimming 0 ready)).notices.queue.map (·.payload) =
      [toLE 6 7 ++ toLE 6 7] := by decide +kernel

/-- In DRAIN; the owner seated with a record free, and with none; the owner in another bay; the owner in no bay. -/
theorem test_premises_HandedTallyReachesItsOwner :
    (ready.pool.Partitioned ∧ allPending.Partitioned) ∧
    ((failing .drain).part = .drain ∧ (failing .drain).registry.entries[(5 : EntryIx)].saved.debt + 7 ≤ 2 ^ 56 - 1 ∧
      (brimming 0 (failing .drain)).part = .drain ∧
      ¬(brimming 0 (failing .drain)).registry.entries[(5 : EntryIx)].saved.debt + 1 ≤ 2 ^ 56 - 1) ∧
    ((seated .admitted).part ≠ .drain ∧ (seated .admitted).ctx[(0 : Bay)].owner = some 5 ∧
      (seated .admitted).pool.free.head = some 0) ∧
    (allPending.free.head = none ∧ allPending.carry[(0 : Bay)] + 7 ≤ 2 ^ 56 - 1) ∧
    ((seated .admitted).ctx[(1 : Bay)].owner ≠ some 5 ∧
      (∀ d : Bay, (seated .admitted).ctx[d].owner = some 5 → d = 0) ∧
      (seated .admitted).pool.carry[(0 : Bay)] + 7 ≤ 2 ^ 56 - 1) ∧
    ∀ c : Bay, ready.ctx[c].owner ≠ some 5 :=
  ⟨⟨partitioned_ready, partitioned_allPending⟩, by decide +kernel, by decide +kernel, by decide +kernel, by decide +kernel,
    by decide +kernel⟩

/-- A seated bay whose owner entry is held at `h` with `w` fl left. -/
def held (h : Action) (w : Nat) (x : BayState) : State :=
  { seated x with registry := { (seated x).registry with entries := upd (seated x).registry.entries 5 fun n =>
    { n with saved := { n.saved with held := h, allowance := w } } } }

/-- Nothing drawn; one less than the allowance; the whole of it, in a settled bay, in a FAULTED one and in none. -/
theorem test_premises_AllowanceDrawnAtSwathEnd :
    (held .accept 0 .admitted).registry.entries[(5 : EntryIx)].saved.held ≠ .limit ∧
    ((held .limit 8 .limited).registry.entries[(5 : EntryIx)].saved.held = .limit ∧
      7 < (held .limit 8 .limited).registry.entries[(5 : EntryIx)].saved.allowance) ∧
    ((held .limit 8 .limited).registry.entries[(5 : EntryIx)].saved.allowance ≤ 8 ∧
      (held .limit 8 .limited).ctx[(0 : Bay)].owner = some 5 ∧
      (∀ d : Bay, (held .limit 8 .limited).ctx[d].owner = some 5 → d = 0) ∧
      (held .limit 8 .limited).ctx[(0 : Bay)].state.settled = true) ∧
    (held .limit 8 .faulted).ctx[(0 : Bay)].state = .faulted ∧ ∀ c : Bay, ready.ctx[c].owner ≠ some 5 := by
  decide +kernel

/-- A commit in flight formed of a carry of 5 × 10^9 + 3 fl. -/
def formed : State :=
  { seated .admitted with
    commits := upd ready.commits 0 fun c => { c with
      state := .polling, batchCarry := 5000000003, total := 5000000003, charged := 5, newResidue := 3, priorLevel := 500,
      priorUse := 9, newLevel := 495, newUse := 10 } }

theorem test_premises_MeteredVolumeIsNeitherLostNorMade :
    (seated .admitted).pool.Partitioned ∧ (seated .admitted).ctx[(0 : Bay)].owner = some 5 ∧
    (seated .admitted).account 0 5 + 7 ≤ 2 ^ 64 - 1 ∧ (seated .admitted).pool.batch[(0 : Bay)] = Queue.empty ∧
    (seated .admitted).commits[(0 : Bay)].batchCarry = 0 ∧ (seated .admitted).commits[(0 : Bay)].batchResidue = 0 ∧
    formed.pool.Partitioned ∧ formed.ctx[(0 : Bay)].owner = some 5 ∧ formed.account 0 5 ≤ 2 ^ 64 - 1 ∧
    formed.CommitFormed 0 5 ∧ formed.registry.entries[(5 : EntryIx)].saved.doubt = none :=
  ⟨partitioned_ready, by decide +kernel, by decide +kernel, by decide +kernel, by decide +kernel, by decide +kernel,
    partitioned_ready, by decide +kernel, by decide +kernel,
    ⟨by decide +kernel, by decide +kernel, by decide +kernel, by decide +kernel⟩, by decide +kernel⟩

/-! #### The fire port, the swath memory and the link -/

def firing (n : Nat) (waiting : List FireBurst) : State :=
  { ready with fire := { service := some ⟨0x100000#24, n⟩, waiting := waiting, returned := [] },
               port := { ready.port with use := .fire } }

theorem test_premises_FireBurstTakenWhileFewerThanTwo : ready.powered = true ∧ (1 ≤ 1 ∧ 256 ≤ 256) ∧
    (firing 1 []).fire.service.toList.length + (firing 1 []).fire.waiting.length < 2 ∧
    2 ≤ (firing 1 [⟨0, 1⟩]).fire.service.toList.length + (firing 1 [⟨0, 1⟩]).fire.waiting.length ∧ 256 < 257 := by
  decide +kernel

/-- An IDLE port with the given fire bursts and link burst waiting. -/
def waiting (fires : List FireBurst) (link : Option LinkBurst) (run : Nat) : State :=
  { ready with fire := { ready.fire with waiting := fires },
               port := { ready.port with linkClaim := link, runCount := run } }

def aBurst (discarded : Bool) : LinkBurst := { write := true, start := 0xFFFFFF#24, len := 2, data := [1, 2], discarded }

def aSwathRead : LinkRequest := { write := false, space := .swath, addr := 0#24, len := 64, data := [] }

/-- A busy port; nothing waiting; fire alone; both at run counts 3 and 4; link alone; arrivals. -/
theorem test_premises_ArbiterFollowsItsTable : (firing 1 []).port.use ≠ .idle ∧
    (ready.port.use = .idle ∧ ready.fire.waiting = [] ∧ ready.port.linkClaim = none) ∧
    (waiting [⟨0, 1⟩] none 0).port.linkClaim = none ∧
    ((waiting [⟨0, 1⟩] (some (aBurst false)) 3).port.linkClaim ≠ none ∧
      (waiting [⟨0, 1⟩] (some (aBurst false)) 3).port.runCount < 4) ∧
    4 ≤ (waiting [⟨0, 1⟩] (some (aBurst false)) 4).port.runCount ∧
    ((waiting [] (some (aBurst false)) 0).fire.waiting = [] ∧
      (waiting [] (some (aBurst false)) 0).port.linkClaim = some (aBurst false)) ∧
    ready.fire.service.toList.length + ready.fire.waiting.length < 2 ∧ aSwathRead.space = .swath := by decide +kernel

/-- A tally that a byte takes to 2^48 − 1, and one that it would take past it. -/
def tallied (n : Nat) : State :=
  { ready with
    tracker := { swathing.tracker with gate := upd (.replicate 8 false) 2 fun _ => true }
    meter := { ready.meter with tally := upd ready.meter.tally 2 fun _ => n } }

/-- No table held; an address in no plane; planes at their first and last addresses, outside READY, outside a swath, with
the gate CLOSED, and OPEN at the edge of saturation. -/
theorem test_premises_MeterFollowsItsTable :
    let covers (a : Nat) (e : PlaneEntry) := e.enabled = true ∧ e.base ≤ a ∧ a < e.base + e.length
    (State.reset.part = .loading ∧ State.reset.copies = none) ∧
    (ready.copies = some aProfile ∧ ∀ e ∈ aProfile.planes, ¬covers 0x0FFFFF e ∧ ¬covers 0x180000 e) ∧
    ((∃ e ∈ aProfile.planes, covers 0x100000 e) ∧ (∃ e ∈ aProfile.planes, covers 0x17FFFF e) ∧
      (∀ e ∈ aProfile.planes, covers 0x100000 e ∨ covers 0x17FFFF e → e.bay = 2)) ∧
    ((failing .drain).part ≠ .ready ∧ (failing .drain).copies = some aProfile) ∧
    (ready.part = .ready ∧ ready.tracker.state ≠ .openSwath) ∧
    (swathing.part = .ready ∧ swathing.tracker.state = .openSwath ∧ swathing.tracker.gate[(2 : Bay)] = false) ∧
    ((tallied 0).tracker.state = .openSwath ∧ (tallied 0).tracker.gate[(2 : Bay)] = true ∧
      (tallied 0).meter.saturated[(2 : Bay)] = false) ∧
    (tallied (2 ^ 48 - 1 - 44000)).meter.tally[(2 : Bay)] + 4 * aProfile.bays[(2 : Bay)].large ≤ 2 ^ 48 - 1 ∧
    2 ^ 48 - 1 < (tallied (2 ^ 48 - 44000)).meter.tally[(2 : Bay)] + 4 * aProfile.bays[(2 : Bay)].large := by
  decide +kernel

theorem test_premises_FireByteReadMeteredAndReturned : ready.powered = true ∧ ready.fire.service = none ∧
    (firing 2 []).fire.service = some ⟨0x100000#24, 2⟩ ∧ (firing 1 []).fire.service = some ⟨0x100000#24, 1⟩ := by
  decide +kernel

def serving (d : Bool) (s : State) : State :=
  { s with port := { use := .link, linkClaim := none, linkService := some (aBurst d), runCount := 0 } }

theorem test_premises_LinkBurstStoresOrReturnsItsBytes : ready.powered = true ∧ ready.port.linkService = none ∧
    (serving true ready).port.linkService = some (aBurst true) ∧ (aBurst true).discarded = true ∧
    ((aBurst false).discarded = false ∧ (asking aWait (serving false ready)).link.outstanding = some aWait ∧
      aWait.response = none) ∧
    (serving false ready).link.outstanding = none ∧
    Memory.wf [(0, 2#8), (0xFFFFFF, 1#8)] = true ∧ (List.replicate 64 (0#8 : Byte)).length ≤ 64 ∧ 255 < 256 := by
  decide +kernel

/-- The port with the bytes `l` in its buffer. -/
def receiving (l : List Byte) : State := { ready with link := { ready.link with state := .receiving, buffer := l } }

/-- A marked frame; an undefined header; length bytes of 63 and 64; a frame one byte short; whole frames with a right and
a wrong CRC; an IDLE port with the overrun mark. -/
theorem test_premises_LinkByteJoinsOrEndsTheFrame :
    let whole := aRead.frame
    ready.powered = true ∧ ready.pins.resetN = false ∧ (ready.link.state = .idle ∧ ready.link.overrun = false) ∧
    ({ ready.link with badFrame := true }).badFrame = true ∧
    ((receiving []).link.buffer ++ [0xC4#8] = [0xC4#8] ∧ 0xC4#8 ≠ 0xC1#8 ∧ 0xC4#8 ≠ 0xC3#8 ∧ 0xC4#8 ≠ 0xC0#8 ∧
      0xC4#8 ≠ 0xC2#8) ∧
    (63 < (((receiving [0xC0, 0, 0, 0]).link.buffer ++ [64]).getD 4 0).toNat ∧
      ¬63 < (((receiving [0xC0, 0, 0, 0]).link.buffer ++ [63]).getD 4 0).toNat) ∧
    (whole.length = 7 ∧ (whole.headD 0 = 0xC0#8 ∨ whole.headD 0 = 0xC2#8) ∧
      toLE 2 (crc16 (whole.take (whole.length - 2))).toNat = whole.drop (whole.length - 2)) ∧
    (toLE 2 (crc16 ((whole.set 6 0xEE).take 5)).toNat ≠ (whole.set 6 0xEE).drop 5) ∧
    ({ ready.link with overrun := true }).overrun = true := by decide +kernel

def linkIn (r : ReceiveState) (bad mark : Bool) : State :=
  { ready with link := { ready.link with state := r, badFrame := bad, overrun := mark } }

theorem test_premises_OverrunBytesAreIgnored : (linkIn .awaitingService false false).pins.resetN = false ∧
    (linkIn .awaitingService false false).link.state = .awaitingService ∧ (linkIn .responding false true).link.state = .responding ∧
    (linkIn .responding false true).link.overrun = true ∧ (linkIn .awaitingService false false).link.overrun = false ∧
    (linkIn .idle false true).link.state = .idle ∧ (linkIn .idle false true).link.overrun = true := by decide +kernel

theorem test_premises_LinkTimersAndTheEndOfAResponse : (linkIn .receiving true false).powered = true ∧
    (linkIn .receiving true false).link.badFrame = true ∧ (linkIn .receiving false false).link.badFrame = false ∧
    (linkIn .responding false false).link.state = .responding ∧ ready.link.state ≠ .receiving ∧
    ready.link.state ≠ .responding := by decide +kernel

/-- A READ of one byte and a WRITE of 64. -/
theorem test_premises_LinkRequestFrameReceivedWhole :
    let r : LinkRequest := { write := false, space := .supply, addr := 0xFFFFFF#24, len := 1, data := [] }
    let w : LinkRequest := { write := true, space := .swath, addr := 0#24, len := 64, data := List.replicate 64 0#8 }
    ready.powered = true ∧ ready.pins.resetN = false ∧ ready.link.badFrame = false ∧ ready.link.overrun = false ∧
    (1 ≤ r.len ∧ r.len ≤ 64 ∧ r.data.length = (if r.write then r.len else 0)) ∧
    (1 ≤ w.len ∧ w.len ≤ 64 ∧ w.data.length = (if w.write then w.len else 0)) := by decide +kernel

def aRequest (w : Bool) (a : Addr24) (d : List Byte) : LinkRequest :=
  { write := w, space := .supply, addr := a, len := if w then d.length else 4, data := d }

/-- The last address of supply space and the first past it; an access that ends on the page's last byte and one past it;
pages 1 and 2 of a FAULTED bay, and its missing identity; pages 2, 3 and 4 of a settled bay; a lock-word change that
passes and one that begins below byte 28; a notes page whose lock bit is 1. -/
theorem test_premises_RouteFollowsTheTables :
    aSwathRead.space = .swath ∧ State.reset.part ≠ .ready ∧
    (8192 ≤ (aRequest false 0x002000#24 []).addr.toNat ∧ (aRequest false 0x001FFF#24 []).addr.toNat < 8192) ∧
    (32 < (aRequest false 0x00009D#24 []).addr.toNat % 32 + (aRequest false 0x00009D#24 []).len ∧
      (aRequest false 0x00009C#24 []).addr.toNat % 32 + (aRequest false 0x00009C#24 []).len ≤ 32 ∧
      (0 : Bay).val = (aRequest false 0x00009C#24 []).addr.toNat / 1024) ∧
    ready.ctx[(0 : Bay)].state = .empty ∧ (seated .checking).ctx[(0 : Bay)].state.inAdmission = true ∧
    ((seated .faulted).ctx[(0 : Bay)].state = .faulted ∧ 2 ≤ (aRequest false 0x000040#24 []).addr.toNat % 1024 / 32 ∧
      (aRequest true 0x00003C#24 [0]).addr.toNat % 1024 / 32 < 2 ∧ (aRequest true 0x00003C#24 [0]).write = true) ∧
    ((seated .blocked).ctx[(0 : Bay)].state = .blocked ∧ (seated .blocked).ctx[(0 : Bay)].marks = some someMarks ∧
      someMarks.length = 32 ∧ (aRequest true 0x00007C#24 [0, 0, 0, 0]).addr.toNat % 1024 / 32 = 3 ∧
      28 ≤ (aRequest true 0x00007C#24 [0, 0, 0, 0]).addr.toNat % 32 ∧
      ¬28 ≤ (aRequest true 0x00007B#24 [0, 0, 0, 0]).addr.toNat % 32 ∧
      (aRequest true 0x000080#24 [1]).addr.toNat % 1024 / 32 = 4 ∧ (field someMarks 28 4).testBit 4 = true ∧
      (aRequest true 0x000080#24 [1]).data.length = (aRequest true 0x000080#24 [1]).len) := by decide +kernel

/-- A pass-through transaction's line has an orphan. -/
def orphaned (s : State) : State := { s with link := { s.link with orphan := upd s.link.orphan 0 fun _ => true } }

theorem test_premises_RoutedRequestServedOrAnswered :
    let s := asking aWait (seated .admitted)
    s.link.outstanding = some aWait ∧ aWait.response = none ∧ routeOf s aSwathRead = .swath ∧
    (∀ k : Fin 4, routeOf s (aRequest false (BitVec.ofNat 24 (32 * k.val)) []) = .image ∧
      (0 : Bay) = supplyBay (BitVec.ofNat 24 (32 * k.val)) ∧ (BitVec.ofNat 24 (32 * k.val)).toNat % 1024 / 32 = k.val) ∧
    (s.ctx[(0 : Bay)].identity = some anIdentity ∧ s.ctx[(0 : Bay)].level.isSome = true ∧
      s.ctx[(0 : Bay)].marks.isSome = true) ∧
    routeOf (asking aWait ready) (aRequest false 0#24 []) = .immediate .absent ∧
    (routeOf s (aRequest true 0#24 [1]) = .immediate .refused ∧ (aRequest true 0#24 [1]).write = true) ∧
    (routeOf s aRead = .passRead ∧ s.link.orphan[(0 : Bay)] = false ∧ screenPasses s.ctx[(0 : Bay)] aRead.claim = true) ∧
    (routeOf s (aRequest true 0x000080#24 [1]) = .passWrite ∧
      screenPasses s.ctx[(0 : Bay)] (aRequest true 0x000080#24 [1]).claim = true) ∧
    (orphaned s).link.orphan[(0 : Bay)] = true := by decide +kernel

theorem test_premises_PassThroughAnsweredByItsOutcome :
    let s := asking aWait (seated .admitted)
    let c : Claim := { claimant := .link, command := .store, page := 3, offset := 28, length := 4, data := [0, 0, 0, 0] }
    (s.link.orphan[(0 : Bay)] = false ∧ s.link.outstanding = some aWait ∧ aWait.response = none) ∧
    ((orphaned s).link.orphan[(0 : Bay)] = true ∧ aWait.waitsOrphan = false) ∧
    (c.command = .store ∧ c.page = 3 ∧ c.offset + c.data.length ≤ 32 ∧ c.length = c.data.length ∧
      s.ctx[(0 : Bay)].marks = some someMarks ∧ someMarks.length = 32) ∧
    aRead.claim.command ≠ .store := by decide +kernel

/-- A read that waits for the orphan, and a write to page 3 below the lock word, which the repeated test refuses. -/
theorem test_premises_PassThroughAnsweredByItsOutcome_waits :
    let x : LinkTransaction := { aWait with waitsOrphan := true }
    let w := aRequest true 0x00007B#24 [0]
    let s := orphaned (asking x (seated .admitted))
    (s.link.orphan[(0 : Bay)] = true ∧ s.link.outstanding = some x ∧ x.waitsOrphan = true ∧ x.request = some aRead ∧
      supplyBay aRead.addr = 0 ∧ x.response = none ∧ aRead.write = false ∧
      screenPasses s.ctx[(0 : Bay)] aRead.claim = true ∧ s.ctx[(0 : Bay)].state ≠ .empty) ∧
    (supplyBay w.addr = 0 ∧ w.write = true ∧ linkWritePasses (s.ctx[(0 : Bay)].marks.getD []) (w.addr.toNat % 1024 / 32)
      (w.addr.toNat % 32) w.len w.data = false ∧ w.addr.toNat < 8192) := by decide +kernel

/-! #### Notices -/

def aNotice (k : NoticeKind) (b : Option Bay) (sending : Bool) : Notice :=
  { kind := k, bay := b, repeats := 255, payload := [], sending := sending }

/-- The unit sends `l`'s head, the rest waits. -/
def noticing (l : List Notice) (closed : Bool) : State :=
  { ready with notices := { ready.notices with queue := l, closed := closed, transmitter := .sending 115200 } }

/-- A clear mask bit; a partner; the closed mark with its QUEUE_FULL; 14 notices held, and 15. -/
theorem test_premises_PostingSettledByTheFirstRuleThatApplies :
    ((0x7FFFFFFF#32).getLsbD (NoticeKind.queueFull.code - 1) = true ∧
      (0xFDFFFFFF#32).getLsbD (NoticeKind.drained.code - 1) = false ∧
      (0xFFFFFFF7#32).getLsbD (NoticeKind.bayAdmitted.code - 1) = false ∧
      NoticeKind.bayAdmitted ∉ [NoticeKind.ready, .profileBad, .drained, .queueFull]) ∧
    ((noticing [aNotice .strayRead (some 2) true, aNotice .strayRead (some 2) false] false).notices.queue =
        [aNotice .strayRead (some 2) true] ++ aNotice .strayRead (some 2) false :: [] ∧
      (aNotice .strayRead (some 2) false).sending = false ∧ (aNotice .strayRead (some 2) true).sending = true) ∧
    ((noticing [aNotice .ready none true, aNotice .queueFull none false] true).notices.closed = true ∧
      ∀ n ∈ [aNotice .ready none true, aNotice .queueFull none false], ¬(n.kind = .strayRead ∧ n.bay = some 2)) ∧
    ((noticing (List.replicate 14 (aNotice .ready none true)) false).notices.queue.length < 15 ∧
      15 ≤ (noticing (List.replicate 15 (aNotice .ready none true)) false).notices.queue.length ∧
      (noticing (List.replicate 15 (aNotice .ready none true)) false).notices.closed = false) := by decide +kernel

theorem test_premises_NoticeFrameSentBeginsTheNext : ready.powered = true ∧ ready.notices.transmitter = .idle ∧
    (noticing [aNotice .ready none true] false).notices.transmitter = .sending 115200 ∧
    (noticing [aNotice .ready none true] false).notices.queue.tail = [] ∧
    (noticing [aNotice .ready none true, aNotice .queueFull none false] true).notices.queue.tail =
      aNotice .queueFull none false :: [] ∧
    ({ ready.notices with queue := [aNotice .poolStarved (some 2) false] }).queue = aNotice .poolStarved (some 2) false :: [] ∧
    (aNotice .poolStarved (some 2) false).kind = .poolStarved ∧ (aNotice .queueFull none false).kind = .queueFull ∧
    ((aNotice .ready none false).kind ≠ .poolStarved ∧ (aNotice .ready none false).kind ≠ .queueFull) ∧
    ((noticing [aNotice .ready none true] false).notices.transmitter ≠ .idle ∧ ready.notices.queue = []) ∧
    ((noticing [aNotice .ready none true] false).notices.queue = aNotice .ready none true :: [] ∧
      (aNotice .ready none true).frame[0]? = some 0xA5#8) := by decide +kernel

/-! #### The tag lines -/

def storing : Transaction := aTransaction (aClaim .commit .store 2) .first

def requesting (sending : Bool) (t : Transaction) : State :=
  { seated .admitted with lines := upd ready.lines 0 fun u =>
    { u with state := .request, sending := sending, current := some t } }

theorem test_premises_QuietWaitStartsTheRequest : (requesting false storing).powered = true ∧
    (requesting false storing).lines[(0 : Bay)].state = .request ∧ (requesting false storing).lines[(0 : Bay)].sending = false ∧
    (requesting true storing).lines[(0 : Bay)].sending = true ∧ ready.lines[(0 : Bay)].state ≠ .request := by decide +kernel

/-- The STORE of a commit in STORING; a PEEK; an IDLE line; a poll timer that runs. -/
theorem test_premises_RequestSentAndPolled :
    let s := committing .storing (requesting true storing)
    s.powered = true ∧ (s.lines[(0 : Bay)].state = .request ∧ s.lines[(0 : Bay)].sending = true ∧
      s.lines[(0 : Bay)].current = some storing ∧ storing.phase = .first ∧ storing.claim.command = .store ∧
      storing.claim.claimant = .commit ∧ s.commits[(0 : Bay)].state = .storing) ∧
    ¬((aTransaction (aClaim .admission .peek 0) .first).phase = .first ∧
      (aTransaction (aClaim .admission .peek 0) .first).claim.command = .store) ∧
    ready.lines[(0 : Bay)].state ≠ .request ∧
    (let p : State := { ready with lines := upd ready.lines 0 fun u => { u with state := .pollWait, pollTimer := .running 1000 } }
     p.lines[(0 : Bay)].state = .pollWait ∧ p.lines[(0 : Bay)].pollTimer ≠ .stopped) ∧
    ready.lines[(0 : Bay)].state ≠ .pollWait := by decide +kernel

/-- A PEEK, a STORE and a PROVE in their FIRST phase and the POLL of each of the last two; a line that sends and two that do
not; a request's last byte. -/
theorem test_premises_RequestSentAndPolled_request :
    (let peek := aTransaction (aClaim .admission .peek 0) .first
     peek.phase = .first ∧ peek.claim.command = .peek ∧
       peek.request = [0x11#8, 0x00#8, 0x00#8, 0x20#8, crc8 [0x11#8, 0x00#8, 0x00#8, 0x20#8]]) ∧
    (storing.phase = .first ∧ storing.claim.command = .store) ∧
    (let prove := aTransaction { aClaim .admission .prove 0 with length := 16, data := List.replicate 16 0xA5#8 } .first
     prove.phase = .first ∧ prove.claim.command = .prove ∧ prove.request.length = 21) ∧
    (let poll := { storing with phase := .polling }
     poll.phase = .polling ∧ poll.request.take 4 = [0x44#8, 0x02#8, 0x00#8, 0x20#8] ∧ poll.request[4]? = poll.request.getLast?) ∧
    ((requesting true storing).lines[(0 : Bay)].sending = true ∧
      (requesting true storing).lines[(0 : Bay)].current = some storing) ∧
    (requesting false storing).lines[(0 : Bay)].sending = false ∧ ready.lines[(0 : Bay)].current = none := by decide +kernel

/-- Each status with the data it carries; a wrong CRC byte; a reply cut short at its last byte. -/
theorem test_premises_RepliesClassedByTheirBytes :
    let peek := aTransaction (aClaim .admission .peek 0) .first
    let poll := aTransaction { aClaim .admission .prove 0 with length := 16 } .polling
    ((0x60#8 : Byte) = 0x60#8 ∧ (List.replicate 32 (0#8 : Byte)).length = peek.claim.length) ∧
    ((List.replicate 17 (0#8 : Byte)).length = 17 ∧ poll.claim.command = .prove ∧ poll.phase ≠ .first) ∧
    ((0x61#8 : Byte) = 0x61#8 ∧ ([] : List Byte) = []) ∧ ((0x62#8 : Byte) = 0x62#8) ∧ ((0x63#8 : Byte) = 0x63#8) ∧
    ((0x64#8 : Byte) ≠ 0x60#8 ∧ (0x64#8 : Byte) ≠ 0x61#8 ∧ (0x64#8 : Byte) ≠ 0x62#8 ∧ (0x64#8 : Byte) ≠ 0x63#8) ∧
    ((0x00#8 : Byte) ≠ crc8 [0x61#8]) ∧ (List.replicate 32 (0#8 : Byte)).length ≤ 32 := by decide +kernel

/-- A reply of one status byte and its data. -/
def answering (st : Byte) (d : List Byte) : TagAnswer := { bytes := (st :: d) ++ [crc8 (st :: d)], stopBitsGood := true }

/-- The answers that reach each clause: to a PEEK, to a STORE, to a POLL with result 0 and another, before and after the
completion limit, on the first and on the second failure. -/
theorem test_premises_TagReplyMovesTheTransaction :
    let peek := aTransaction (aClaim .admission .peek 0) .first
    let poll := { storing with phase := .polling }
    let s := onLine .awaitReply peek (seated .identifying)
    (s.powered = true ∧ s.lines[(0 : Bay)].state = .awaitReply ∧ s.lines[(0 : Bay)].current = some peek) ∧
    (∀ a ∈ [answering 0x60 [], answering 0x61 [], answering 0x63 []], a.bytes ≠ []) ∧
    ready.lines[(0 : Bay)].state ≠ .awaitReply ∧
    classify peek (answering 0x60 (List.replicate 32 0)) = .accept (List.replicate 32 0) ∧
    (classify storing (answering 0x60 []) = .accept [] ∧ storing.phase = .first ∧ storing.claim.command ≠ .peek) ∧
    (classify poll (answering 0x60 [0]) = .accept [0] ∧ ([0] : List Byte).headD 0 = 0x00#8) ∧
    (classify poll (answering 0x60 [1]) = .accept [1] ∧ ([1] : List Byte).headD 0 ≠ 0x00#8) ∧
    (classify { storing with isRepeat := true } (answering 0x61 []) = .wait) ∧
    (classify poll (answering 0x61 []) = .wait ∧ poll.limitPassed = false ∧
      classify { poll with limitPassed := true } (answering 0x61 []) = .wait) ∧
    classify peek (answering 0x63 []) = .denied ∧
    (classify peek (answering 0x62 []) = .garbled ∧ peek.retries = 0 ∧ peek.limitPassed = false ∧
      classify { poll with limitPassed := true } (answering 0x62 []) = .garbled ∧
      classify { poll with retries := 1 } (answering 0x62 []) = .garbled) := by decide +kernel

theorem test_premises_TimeoutsRetryOrEndTheTransaction :
    let poll := { storing with phase := .polling }
    let p : State := { seated .admitted with lines := upd ready.lines 0 fun u =>
      { u with state := .pollWait, current := some poll, limitTimer := .running 25000 } }
    let q : State := { seated .admitted with lines := upd ready.lines 0 fun u =>
      { u with state := .awaitReply, current := some poll, limitTimer := .running 25000 } }
    (q.powered = true ∧ q.lines[(0 : Bay)].state = .awaitReply ∧ q.lines[(0 : Bay)].current = some poll) ∧
    (poll.retries = 0 ∧ poll.limitPassed = false) ∧ ({ poll with limitPassed := true }).limitPassed = true ∧
    ({ poll with retries := 1 }).retries ≠ 0 ∧ ready.lines[(0 : Bay)].state ≠ .awaitReply ∧
    (p.lines[(0 : Bay)].limitTimer ≠ .stopped ∧ p.lines[(0 : Bay)].current = some poll ∧ p.lines[(0 : Bay)].state = .pollWait) ∧
    (q.lines[(0 : Bay)].limitTimer ≠ .stopped ∧ q.lines[(0 : Bay)].state ≠ .pollWait) ∧
    ready.lines[(0 : Bay)].limitTimer = .stopped := by decide +kernel

def queued (w : Waiting) (flag : Bool) : State :=
  { seated .admitted with lines := upd ready.lines 0 fun u => { u with waiting := w, lastLink := flag } }

/-- Nothing waiting; admission; link first and link alone; mark and commit with the flag set. -/
theorem test_premises_TransactionEndsAndTheLineIsArbitrated :
    let a := aClaim .admission .peek 0
    let l := aClaim .link .peek 4
    let m := aClaim .mark .store 3
    let c := aClaim .commit .store 2
    ready.lines[(0 : Bay)].waiting = ⟨none, none, none, none⟩ ∧ (failing .drain).part = .drain ∧
    (seated .admitted).part ≠ .drain ∧ (seated .admitted).part ≠ .drained ∧
    (queued ⟨some a, none, none, none⟩ false).lines[(0 : Bay)].waiting.admission = some a ∧
    ((queued ⟨none, some c, some m, some l⟩ false).lines[(0 : Bay)].waiting.link = some l ∧
      (queued ⟨none, some c, some m, some l⟩ false).lines[(0 : Bay)].lastLink = false) ∧
    ((queued ⟨none, none, none, some l⟩ true).lines[(0 : Bay)].waiting.mark = none ∧
      (queued ⟨none, none, none, some l⟩ true).lines[(0 : Bay)].waiting.commit = none) ∧
    ((queued ⟨none, some c, some m, some l⟩ true).lines[(0 : Bay)].waiting.mark = some m ∧
      (queued ⟨none, some c, some m, some l⟩ true).lines[(0 : Bay)].lastLink = true) ∧
    ((queued ⟨none, some c, none, none⟩ false).lines[(0 : Bay)].waiting.mark = none ∧
      (queued ⟨none, some c, none, none⟩ false).lines[(0 : Bay)].waiting.commit = some c ∧
      (queued ⟨none, some c, none, none⟩ false).lines[(0 : Bay)].state = .idle) := by decide +kernel

/-- Each shape that passes, and one step outside it. -/
theorem test_premises_WriteScreenPassesOnlyItsShapes :
    let x := (seated .admitted).ctx[(0 : Bay)]
    let st (w : Claimant) (page off len : Nat) (d : List Byte) : Claim :=
      { claimant := w, command := .store, page := page, offset := off, length := len, data := d }
    screenPasses x { st .link 31 0 32 [] with command := .peek } = true ∧
    screenPasses x { st .link 32 0 32 [] with command := .peek } = false ∧
    screenPasses x { st .link 31 1 32 [] with command := .peek } = false ∧
    screenPasses x (st .commit 2 0 32 (levelPage 500 10 0 (List.replicate 8 0))) = true ∧
    screenPasses x (st .commit 2 0 32 (levelPage 501 10 0 (List.replicate 8 0))) = false ∧
    screenPasses x (st .commit 2 0 32 (levelPage 500 11 0 (List.replicate 8 0))) = false ∧
    screenPasses x (st .mark 3 24 4 [1, 0, 0, 0]) = true ∧ screenPasses x (st .mark 3 28 4 [1, 0, 0, 0]) = false ∧
    screenPasses x (st .mark 3 0 4 [1, 0, 0, 0]) = false ∧
    screenPasses x (st .link 3 28 4 [0, 0, 0, 0]) = true ∧ screenPasses x (st .link 3 27 4 [0, 0, 0, 0]) = false ∧
    screenPasses x (st .link 4 0 32 []) = true ∧ screenPasses x (st .link 2 0 32 []) = false ∧
    ready.ctx[(0 : Bay)].state = .empty ∧ x.state ≠ .empty := by decide +kernel

/-! #### Proof and admission -/

def proving (r : ProofRequest) : State :=
  { seated .proving with
    ctx := upd (seated .proving).ctx 0 fun c => { c with awaitProof := true }
    proof := { service := some r, fifo := [], draws := 0 } }

def aNonceRequest (cancelled : Bool) : ProofRequest :=
  { bay := 0, requester := .admission, inputs := .nonce, cancelled := cancelled }

theorem test_premises_ProofServiceDeliversAndServesTheNext : ready.powered = true ∧ ready.proof.service = none ∧
    (proving (aNonceRequest true)).proof.service = some (aNonceRequest true) ∧ (aNonceRequest true).cancelled = true ∧
    ((aNonceRequest false).cancelled = false ∧ (aNonceRequest false).requester = .admission ∧
      (aNonceRequest false).inputs = .nonce ∧ (proving (aNonceRequest false)).ctx[(0 : Bay)].awaitProof = true ∧
      (proving (aNonceRequest false)).ctx[(0 : Bay)].state = .proving) ∧
    (seated .faulted).ctx[(0 : Bay)].awaitProof = false ∧
    (∀ i ∈ [ProofInputs.check 3 7 0 0 0#32, .proof 0 7 []],
      (proving { bay := 0, requester := .commit, inputs := i, cancelled := false }).proof.service =
        some { bay := 0, requester := .commit, inputs := i, cancelled := false } ∧ i ≠ .nonce) := by decide +kernel

def bothHeld (r : ProveResult) (n : Nat) : State :=
  { seated .proving with ctx := upd (seated .proving).ctx 0 fun c =>
    { c with heldProve := some r, heldExpected := some (List.replicate 16 0), attempts := n } }

/-- A blank page; the format, maker, ink, key slot and capacity each one step outside; the good identity. Then a right
response, a wrong one, and a failed PROVE on the second attempt. -/
theorem test_premises_IdentityAndProofJudged :
    (∀ x ∈ List.replicate 64 (0xFF#8 : Byte), x = 0xFF#8) ∧ (¬∀ x ∈ anIdentity, x = 0xFF#8) ∧
    field (anIdentity.set 15 2) 15 1 ≠ 1 ∧ field (anIdentity.set 8 8) 8 2 ∉ aProfile.makers ∧
    BitVec.ofNat 8 (field (anIdentity.set 10 2) 10 1) ≠ aProfile.bays[(0 : Bay)].ink ∧
    (3 < field (anIdentity.set 11 4) 11 1 ∧ ¬3 < field (anIdentity.set 11 3) 11 1) ∧
    (¬field anIdentity 15 1 ≠ 1 ∧ field anIdentity 8 2 ∈ aProfile.makers ∧
      ¬BitVec.ofNat 8 (field anIdentity 10 1) ≠ aProfile.bays[(0 : Bay)].ink ∧
      ¬(3 < field anIdentity 11 1 ∨ aProfile.keys[slotOf anIdentity] = BitVec.allOnes 128) ∧ field anIdentity 12 3 ≠ 0) ∧
    (bothHeld (.response (List.replicate 16 0)) 0).ctx[(0 : Bay)].heldProve = some (.response (List.replicate 16 0)) ∧
    (bothHeld .failed 0).ctx[(0 : Bay)].heldExpected = some (List.replicate 16 0) ∧
    ((bothHeld .failed 0).ctx[(0 : Bay)].attempts = 0 ∧ (bothHeld .failed 1).ctx[(0 : Bay)].attempts = 1) ∧
    ProveResult.failed ≠ .response (List.replicate 16 0) := by decide +kernel

/-- Pages 0 and 1 that pass and that are refused; a proof engine result awaited in CHECKING and in PROVING, and one
awaited by nobody; no result held. -/
theorem test_premises_IdentityAndProofJudged_pages :
    ((seated .identifying).ctx[(0 : Bay)].state = .identifying ∧
      identificationFault (seated .identifying).profile 0 (anIdentity.take 32 ++ anIdentity.drop 32) = none ∧
      identificationFault (seated .identifying).profile 0 (List.replicate 32 0xFF#8 ++ List.replicate 32 0xFF#8) =
        some .blank) ∧
    (let s : State := { seated .identifying with ctx := upd (seated .identifying).ctx 0 fun c =>
      { c with heldPage := some (anIdentity.take 32) } }
     s.ctx[(0 : Bay)].state = .identifying ∧ s.ctx[(0 : Bay)].heldPage = some (anIdentity.take 32)) ∧
    (let s : State := { seated .checking with ctx := upd (seated .checking).ctx 0 fun c => { c with awaitProof := true } }
     s.ctx[(0 : Bay)].state = .checking ∧ s.ctx[(0 : Bay)].awaitProof = true) ∧
    ((proving (aNonceRequest false)).ctx[(0 : Bay)].state = .proving ∧
      (proving (aNonceRequest false)).ctx[(0 : Bay)].awaitProof = true) ∧
    (LineOutcome.silent ≠ .denied ∧ (seated .proving).ctx[(0 : Bay)].heldProve = none ∧
      (seated .checking).ctx[(0 : Bay)].heldCheck = none ∧ (seated .checking).ctx[(0 : Bay)].awaitProof = false) := by
  decide +kernel

/-- Bay 0 in CHECKING with everything held; the entry of its serial in bay `c`, or no entry yet. -/
def checking (known : Bool) (c : Option Bay) : State :=
  let s := seated .checking
  { s with
    ctx := upd s.ctx 0 fun x => { x with owner := none, action := none, heldCheck := some true }
    registry := if known then { s.registry with entries := upd s.registry.entries 5 fun n => { n with inBay := c } }
      else Registry.reset }

theorem test_premises_CheckingCompletesAsOneAct :
    let k : LookupKey := { serial := pageSerial anIdentity, capacity := pageCapacity anIdentity, level := pageLevel aLevel,
                           use := pageUse aLevel }
    let x := (checking true none).ctx[(0 : Bay)]
    (x.identity = some anIdentity ∧ x.level = some aLevel ∧ x.marks = some someMarks ∧ x.heldCheck = some true ∧
      x.state = .checking) ∧
    ((lookup 0 k (checking true none)).2 = .found 5 ∧ (lookup 0 k (checking false none)).2 = .created 0) ∧
    (let s1 := (lookup 0 k (checking true none)).1
     let r := resolveDoubt 0 5 k.level k.use { s1 with ctx := upd s1.ctx 0 fun c => { c with owner := some 5 } }
     let checks := refillChecks true true someMarks k.level k.use k.capacity r.1.registry.entries[(5 : EntryIx)].saved
     r.2 = false ∧ (checking true none).pool.carry[(0 : Bay)] +
       (combineEntry (checking true none).profile.policy checks r.1.registry.entries[(5 : EntryIx)]).saved.debt ≤
         2 ^ 56 - 1) ∧
    ((checking true (some 1)).registry.find (pageSerial anIdentity) = some 5 ∧
      (checking true (some 1)).registry.entries[(5 : EntryIx)].inBay ≠ none) := by decide +kernel

/-- A registry with no entry, one full of other serials, and one where two entries may go. -/
def crowded (volume : Nat) : State :=
  { seated .checking with registry := { Registry.reset with entries := Vector.ofFn fun e =>
    { Entry.blank with
      saved := { Saved.blank with valid := true, serial := BitVec.ofNat 64 (1000 + e.val), debt := volume,
                                  lastSeen := if e.val = 7 ∨ e.val = 47 then 3 else 4 }
      inBay := if e.val = 0 then some 1 else none } } }

/-- Found, held, created in the lowest entry, and evicted on a tie of last seen. -/
theorem test_premises_LookupFindsHoldsCreatesOrEvicts :
    let r := (checking true none).registry
    let k := pageSerial anIdentity
    ((r.entries[(5 : EntryIx)].saved.valid = true ∧ r.entries[(5 : EntryIx)].saved.serial = k ∧
        r.entries[(5 : EntryIx)].inBay = none) ∧
      ∀ f : EntryIx, r.entries[f].saved.valid = true ∧ r.entries[f].saved.serial = k → f = 5) ∧
    (checking true (some 1)).registry.entries[(5 : EntryIx)].inBay ≠ none ∧
    ((∀ e : EntryIx, ¬(ready.registry.entries[e].saved.valid = true)) ∧ ∀ f : EntryIx, ¬f < 0) ∧
    ((∀ e : EntryIx, (crowded 2).registry.entries[e].saved.valid = true ∧ (crowded 2).registry.entries[e].saved.serial ≠ k) ∧
      (crowded 2).registry.entries[(7 : EntryIx)].inBay = none ∧ (crowded 2).registry.write = none ∧
      (∀ c : Bay, (crowded 2).tracker.owner[c] ≠ some 7) ∧
      (∀ f : EntryIx, (crowded 2).registry.entries[(7 : EntryIx)].saved.lastSeen < (crowded 2).registry.entries[f].saved.lastSeen ∨
        ((crowded 2).registry.entries[(7 : EntryIx)].saved.lastSeen = (crowded 2).registry.entries[f].saved.lastSeen ∧
          (7 : EntryIx) ≤ f)) ∧
      0 < (crowded 2).registry.entries[(7 : EntryIx)].saved.debt ∧
      (crowded 0).registry.entries[(7 : EntryIx)].saved.debt = 0) := by decide +kernel

def aDoubt : DoubtRecord :=
  { priorLevel := 500, priorUse := 9, expectedLevel := 495, expectedUse := 10, total := 5000000003, overdraw := 0 }

def doubtful : State :=
  { seated .checking with registry := { (seated .checking).registry with
      entries := upd (seated .checking).registry.entries 5 fun n => { n with saved := { n.saved with doubt := some aDoubt } } } }

/-- A LIMIT row with 0 LU, a LIMIT row with 1 LU and a BLOCK row; two verdicts of equal rank, and two of different rank. -/
theorem test_premises_VerdictFollowsTheChecksAndNeverWeakens_policy :
    let rows (a b c : PolicyRow) : Policy := { aProfile.policy with refilled := a, rolledBack := b, tampered := c }
    let p := rows { action := .limit, allowanceLU := 0, mark := true } { action := .limit, allowanceLU := 1, mark := true }
      { action := .block, allowanceLU := 1, mark := false }
    (p.refilled.action = .limit ∧ p.refilled.allowanceLU = 0) ∧ 0 < p.rolledBack.allowanceLU ∧
    p.tampered.action ≠ .limit ∧ p.action .rolledBack = .limit ∧ Verdict.refilled ≠ .genuine ∧
    (p.action .refilled).strength = (p.action .tampered).strength ∧
    (p.action .rolledBack).strength < (p.action .refilled).strength := by decide +kernel

/-- Marks with and without a refill kind; use counts and levels on each side of the entry's; each action against each
history; a doubt record whose total may join the debt. -/
theorem test_premises_VerdictFollowsTheChecksAndNeverWeakens :
    ((0 ≤ 6 ∧ 1 ≤ field someMarks (4 * 0) 1 ∧ field someMarks (4 * 0) 1 ≤ 5) ∧
      ¬∃ k : Nat, k < 7 ∧ 1 ≤ field (List.replicate 32 0xFF#8) (4 * k) 1 ∧ field (List.replicate 32 0xFF#8) (4 * k) 1 ≤ 5) ∧
    (let v := (seated .checking).registry.entries[(5 : EntryIx)].saved
     8 < v.lastUse ∧ v.lastUse ≤ 9 ∧ v.lastLevel < 501 ∧ 9 = v.lastUse ∧ 499 < v.lastLevel ∧ 500 = v.lastLevel ∧
       10 ≠ v.lastUse) ∧
    (aProfile.policy.action .rolledBack = .block ∧ aProfile.policy.action .genuine = .accept ∧
      aProfile.policy.action .refilled = .limit) ∧
    ((held .accept 0 .checking).registry.entries[(5 : EntryIx)].saved.held = .accept ∧
      (held .limit 7 .checking).registry.entries[(5 : EntryIx)].saved.held = .limit ∧
      (held .block 7 .checking).registry.entries[(5 : EntryIx)].saved.held = .block) ∧
    (seated .checking).registry.entries[(5 : EntryIx)].saved.doubt = none ∧
    doubtful.registry.entries[(5 : EntryIx)].saved.doubt = some aDoubt ∧
    doubtful.registry.entries[(5 : EntryIx)].saved.debt + aDoubt.total ≤ 2 ^ 56 - 1 := by decide +kernel

/-! #### Commits -/

theorem test_premises_CommitDueExactlyWhen : (seated .blocked).ctx[(0 : Bay)].owner = some 5 ∧
    commitDue (carrying 4999999999 .stopped) 0 ≠ some 5 ∧ commitDue (carrying 5000000000 .stopped) 0 = some 5 ∧
    commitDue (carrying 1 .elapsed) 0 = some 5 ∧ commitDue (carrying 0 .elapsed) 0 ≠ some 5 := by decide +kernel

/-- A tag whose use count is spent. -/
def spent (v : Nat) : State :=
  { carrying v .stopped with ctx := upd (carrying v .stopped).ctx 0 fun c =>
    { c with level := some (levelPage 500 65535 0 (List.replicate 8 0)) } }

/-- q of 0 at 10^9 − 1 fl, a spent use count at 10^9 fl, and a use count of 65534. -/
theorem test_premises_CommitStartAbsorbsRefusesOrPlans :
    (carrying 1000000000 .stopped).pool.batch[(0 : Bay)] = Queue.empty ∧
    (carrying 1000000000 .stopped).commits[(0 : Bay)].state = .idle ∧
    (0 + 999999999 + (carrying 999999999 .stopped).registry.entries[(5 : EntryIx)].saved.residue) / 10 ^ 9 = 0 ∧
    0 < (0 + 1000000000 + (carrying 1000000000 .stopped).registry.entries[(5 : EntryIx)].saved.residue) / 10 ^ 9 ∧
    (pageUse ((spent 1000000000).ctx[(0 : Bay)].level.getD []) = 65535 ∧ (spent 1000000000).pool.carry[(0 : Bay)] ≤ 2 ^ 56 - 1 ∧
      (spent 1000000000).ctx[(0 : Bay)].state.settled = true) ∧
    pageUse (levelPage 500 65534 0 (List.replicate 8 0)) < 65535 := by decide +kernel

theorem test_premises_CommitStartAbsorbsRefusesOrPlans_pool : (carrying 1000000000 .stopped).pool.Partitioned :=
  partitioned_congr rfl rfl rfl rfl partitioned_ready

def provingCode : State :=
  { committing .provingCode (seated .admitted) with commits := upd ready.commits 0 fun c =>
    { c with state := .provingCode, newLevel := 495, newUse := 10 } }

theorem test_premises_CommitWritesItsPageAndSettles :
    let page := levelPage 495 10 aProfile.printerId (List.replicate 8 0)
    (2 ^ 24 - 1 < 2 ^ 24 ∧ 2 ^ 16 - 1 < 2 ^ 16 ∧ (List.replicate 8 (0 : Byte)).length = 8) ∧
    (provingCode.ctx[(0 : Bay)].owner = some 5 ∧ provingCode.commits[(0 : Bay)].state = .provingCode ∧
      provingCode.part = .ready ∧ provingCode.ctx[(0 : Bay)].state ≠ .empty ∧
      screenPasses provingCode.ctx[(0 : Bay)] { claimant := .commit, command := .store, page := 2, offset := 0,
                                                length := 32, data := page } = true) ∧
    (formed.ctx[(0 : Bay)].owner = some 5 ∧ formed.pool.pend[(0 : Bay)].total = 0 ∧ formed.pool.carry[(0 : Bay)] = 0 ∧
      formed.commits[(0 : Bay)].newResidue < 10 ^ 9 ∧ 1 ≤ formed.profile.bays[(0 : Bay)].commitStep ∧
      formed.commits[(0 : Bay)].excess = 0 ∧ lowMark formed 0 ≤ formed.commits[(0 : Bay)].newLevel ∧
      formed.commits[(0 : Bay)].newLevel ≠ 0) ∧
    formed.commits[(0 : Bay)].state ≠ .provingCode ∧
    (let d : State := { provingCode with part := .drain }
     d.ctx[(0 : Bay)].owner = some 5 ∧ d.commits[(0 : Bay)].state = .provingCode ∧ d.part ≠ .ready) ∧
    screenPasses provingCode.ctx[(0 : Bay)] { claimant := .commit, command := .store, page := 2, offset := 0, length := 32,
                                              data := levelPage 495 11 aProfile.printerId (List.replicate 8 0) } = false ∧
    (seated .faulted).ctx[(0 : Bay)].state = .faulted ∧
    (formed.part = .ready ∧ formed.ctx[(0 : Bay)].state.settled = true ∧
      formed.pool.carry[(0 : Bay)] + formed.commits[(0 : Bay)].batchCarry ≤ 2 ^ 56 - 1) := by decide +kernel

theorem test_premises_CommitWritesItsPageAndSettles_pool : formed.pool.Partitioned := partitioned_ready

/-- A commit that took the level from `p` to `n` LU, with `x` LU of excess. -/
def settledAt (n p x overdraw : Nat) : State :=
  { seated .admitted with
    commits := upd ready.commits 0 fun c => { c with newLevel := n, priorLevel := p, excess := x }
    registry := { (seated .admitted).registry with entries := upd (seated .admitted).registry.entries 5 fun e =>
      { e with saved := { e.saved with overdraw := overdraw } } } }

/-- One below the low mark of 100 LU and at it; level 0; the margin of 10 per cent of 1000 LU met and passed; BLOCK over
ACCEPT, and BLOCK over BLOCK with the worst verdict standing. -/
theorem test_premises_LevelNoticesAndEscalation :
    pageCapacity anIdentity * aProfile.bays[(0 : Bay)].lowMark / 100 = 100 ∧
    ((settledAt 99 500 0 0).commits[(0 : Bay)].newLevel < 100 ∧ (settledAt 99 500 0 0).commits[(0 : Bay)].lowPosted = false) ∧
    100 ≤ (settledAt 100 500 0 0).commits[(0 : Bay)].newLevel ∧
    ((settledAt 0 500 1 0).commits[(0 : Bay)].newLevel = 0 ∧ 0 < (settledAt 0 500 1 0).commits[(0 : Bay)].priorLevel) ∧
    (0 < (settledAt 0 500 1 100).commits[(0 : Bay)].excess ∧
      (settledAt 0 500 1 100).registry.entries[(5 : EntryIx)].saved.overdraw * 100 ≤ pageCapacity anIdentity * aProfile.margin ∧
      pageCapacity anIdentity * aProfile.margin < (settledAt 0 500 1 101).registry.entries[(5 : EntryIx)].saved.overdraw * 100) ∧
    (aProfile.policy.overdrawn.mark = false ∧ aProfile.policy.action .overdrawn = .block ∧
      (held .accept 0 .admitted).registry.entries[(5 : EntryIx)].saved.held.strength <
        (aProfile.policy.action .overdrawn).strength ∧ (held .accept 0 .admitted).ctx[(0 : Bay)].state.settled = true) ∧
    ((held .accept 0 .faulted).ctx[(0 : Bay)].state = .faulted ∧ (held .accept 0 .faulted).ctx[(0 : Bay)].owner ≠ none) ∧
    ((aProfile.policy.rank .tampered) = aProfile.policy.rank .overdrawn ∧
      ¬(held .block 0 .blocked).registry.entries[(5 : EntryIx)].saved.held.strength <
        (aProfile.policy.action .overdrawn).strength) := by decide +kernel

/-- The mark writer of bay 0 with the claim in hand `h` and the list `l`. -/
def stamping (l : List Verdict) (h : Option (Verdict × Nat)) : State :=
  { seated .admitted with marks := upd ready.marks 0 fun _ => { list := l, inHand := h } }

/-- Not READY, no owner, a kind already on the tag, listed or in hand; a claim in hand already; slot 1 the lowest blank,
slot 6 alone blank, and none; a list with a stamp left. -/
theorem test_premises_StampsAreListedClaimedAndSettled :
    State.reset.part ≠ .ready ∧ ready.ctx[(0 : Bay)].owner = none ∧ field someMarks (4 * 0) 1 = Verdict.refilled.code ∧
    Verdict.tampered ∈ (stamping [.tampered] none).marks[(0 : Bay)].list ∧
    (stamping [] (some (.tampered, 6))).marks[(0 : Bay)].inHand = some (.tampered, 6) ∧
    ((seated .admitted).part = .ready ∧ (seated .admitted).ctx[(0 : Bay)].owner ≠ none ∧
      (∀ j : Nat, j < 7 → field someMarks (4 * j) 1 ≠ Verdict.rolledBack.code) ∧
      (seated .admitted).marks[(0 : Bay)].list = [] ∧ (seated .admitted).marks[(0 : Bay)].inHand = none) ∧
    (1 ≤ 6 ∧ field someMarks (4 * 1) 1 = 0xFF ∧ (∀ j : Nat, j < 1 → field someMarks (4 * j) 1 ≠ 0xFF) ∧
      (seated .admitted).ctx[(0 : Bay)].marks = some ((seated .admitted).ctx[(0 : Bay)].marks.getD []) ∧
      (seated .admitted).ctx[(0 : Bay)].state ≠ .empty) ∧
    (let full := List.replicate 24 0x01#8 ++ List.replicate 8 0xFF#8
     field full (4 * 6) 1 = 0xFF ∧ (∀ j : Nat, j < 6 → field full (4 * j) 1 ≠ 0xFF) ∧
       ∀ j : Nat, j < 7 → field (List.replicate 28 0x01#8 ++ List.replicate 4 0xFF#8) (4 * j) 1 ≠ 0xFF) ∧
    ((stamping [] (some (.tampered, 6))).marks[(0 : Bay)].list = [] ∧ State.reset.part ≠ .ready) ∧
    (let s := stamping [.rolledBack] (some (.tampered, 1))
     let now := someMarks.take 4 ++ [4, 0, 0, 0] ++ someMarks.drop 8
     s.marks[(0 : Bay)].list = .rolledBack :: [] ∧ s.part = .ready ∧ s.marks[(0 : Bay)].inHand = some (.tampered, 1) ∧
       s.ctx[(0 : Bay)].marks = some (s.ctx[(0 : Bay)].marks.getD []) ∧ s.ctx[(0 : Bay)].state ≠ .empty ∧
       (2 ≤ 6 ∧ field now (4 * 2) 1 = 0xFF ∧ ∀ j : Nat, j < 2 → field now (4 * j) 1 ≠ 0xFF)) ∧
    (let img := List.replicate 24 0x01#8 ++ List.replicate 8 0xFF#8
     ∀ j : Nat, j < 7 → field (img.take 24 ++ [4, 0, 0, 0] ++ img.drop 28) (4 * j) 1 ≠ 0xFF) := by decide +kernel

/-! #### The invariant -/

/-- A part in READY with a command waiting has the invariant, and its step answers a next state. -/
theorem test_premises_EveryStepKeepsTheInvariant :
    let s : State := { ready with pending := [.swathRise] }
    PartInv s ∧ step s = .next (after (step s)) :=
  ⟨.ofReset rfl noticesReset_ok rfl rfl, next_after (by decide +kernel)⟩

end Sys2Proof.Tests
end

section
/-! SUPPORT. The write screen shape by shape, and the fates of an arriving claim (R7, R17). -/

namespace Sys2Proof.Machine

/-! ### The screen's tests as propositions (R1, R5, R7) -/

@[simp] theorem Claim.inRange_iff (c : Claim) :
    c.inRange = true ↔ c.page < 32 ∧ 1 ≤ c.length ∧ c.offset + c.length ≤ 32 := by
  simp [Claim.inRange, and_assoc]

theorem lockWritePasses_iff {img : List Byte} {off len : Nat} {d : List Byte} :
    lockWritePasses img off len d = true ↔ 28 ≤ off ∧ off + len ≤ 32 ∧ onlyClears d (slice img off len) = true := by
  simp [lockWritePasses, and_assoc]

theorem linkWritePasses_iff {img : List Byte} {page off len : Nat} {d : List Byte} :
    linkWritePasses img page off len d = true ↔
      (page = 3 ∧ 28 ≤ off ∧ off + len ≤ 32 ∧ onlyClears d (slice img off len) = true) ∨
      (4 ≤ page ∧ (field img 28 4).testBit page = true) := by
  unfold linkWritePasses
  split
  · next h => simp [h, lockWritePasses_iff]
  · next h => simp [h, unlocked]

/-- A whole slot among the seven, given by its offset or by its number (R4). -/
theorem slotOffset_iff {off : Nat} {P : Nat → Prop} :
    (off % 4 = 0 ∧ off / 4 ≤ 6 ∧ P (off / 4)) ↔ ∃ k, k ≤ 6 ∧ off = 4 * k ∧ P k := by
  constructor
  · rintro ⟨hmod, hle, hp⟩
    exact ⟨off / 4, hle, by omega, hp⟩
  · rintro ⟨k, hk, rfl, hp⟩
    rw [Nat.mul_div_cancel_left k (by decide)]
    exact ⟨Nat.mul_mod_right 4 k, hk, hp⟩

/-! ### What passes, by command and claimant (R7) -/

section
variable {x : BayContext} {c : Claim}

theorem screenPasses_peek (hc : c.command = .peek) : screenPasses x c = c.inRange := by
  simp [screenPasses, hc]

theorem screenPasses_prove (hc : c.command = .prove) :
    screenPasses x c = true ↔ c.claimant = .admission ∧ c.inRange = true := by
  simp [screenPasses, hc, and_comm]

theorem screenPasses_store_admission (hc : c.command = .store) (hw : c.claimant = .admission) :
    screenPasses x c = false := by
  simp [screenPasses, hc, hw]

theorem screenPasses_store_commit (hc : c.command = .store) (hw : c.claimant = .commit) :
    screenPasses x c = true ↔ c.page = 2 ∧ c.offset = 0 ∧ c.length = 32 ∧
      ∃ img, x.level = some img ∧ pageUse c.data = pageUse img + 1 ∧ pageLevel c.data ≤ pageLevel img := by
  cases hl : x.level <;> simp [screenPasses, hc, hw, hl, and_assoc]

theorem screenPasses_store_mark (hc : c.command = .store) (hw : c.claimant = .mark) :
    screenPasses x c = true ↔ c.page = 3 ∧ c.length = 4 ∧
      ∃ img k, x.marks = some img ∧ k ≤ 6 ∧ c.offset = 4 * k ∧ markKind img k = 0xFF ∧ field c.data 0 1 ≠ 0xFF := by
  cases hm : x.marks with
  | none => simp [screenPasses, hc, hw, hm]
  | some img =>
    have slot := slotOffset_iff (off := c.offset) (P := fun k => markKind img k = 0xFF ∧ field c.data 0 1 ≠ 0xFF)
    simp only [Option.some.injEq, exists_and_left, exists_eq_left', ← slot]
    simp [screenPasses, hc, hw, hm, markBlank, and_assoc, and_left_comm]

/-- The engine controller's two shapes: a lock-word change, which only clears bits, and an unlocked notes page. -/
theorem screenPasses_store_link (hc : c.command = .store) (hw : c.claimant = .link) :
    screenPasses x c = true ↔
      (c.page = 3 ∧ 28 ≤ c.offset ∧ c.inRange = true ∧
        ∃ img, x.marks = some img ∧ onlyClears c.data (slice img c.offset c.length) = true) ∨
      (4 ≤ c.page ∧ c.inRange = true ∧ ∃ img, x.marks = some img ∧ (field img 28 4).testBit c.page = true) := by
  have guarded : screenPasses x c = true ↔ c.inRange = true ∧ ∃ img, x.marks = some img ∧
      linkWritePasses img c.page c.offset c.length c.data = true := by
    cases hm : x.marks <;> simp [screenPasses, hc, hw, hm]
  rw [guarded]
  constructor
  · rintro ⟨hin, img, hm, hpass⟩
    obtain ⟨hp, hoff, -, hclears⟩ | ⟨hp, hbit⟩ := linkWritePasses_iff.mp hpass
    · exact .inl ⟨hp, hoff, hin, img, hm, hclears⟩
    · exact .inr ⟨hp, hin, img, hm, hbit⟩
  · rintro (⟨hp, hoff, hin, img, hm, hclears⟩ | ⟨hp, hin, img, hm, hbit⟩)
    · obtain ⟨-, -, hfit⟩ := c.inRange_iff.mp hin
      exact ⟨hin, img, hm, linkWritePasses_iff.mpr (.inl ⟨hp, hoff, hfit, hclears⟩)⟩
    · exact ⟨hin, img, hm, linkWritePasses_iff.mpr (.inr ⟨hp, hbit⟩)⟩

end

/-! ### The three fates of an arriving claim (R17) -/

theorem claimArrives_of_empty {b : Bay} {c : Claim} {s : State} (h : s.ctx[b].state = .empty) :
    claimArrives b c s = (s, some (.abandoned false)) := by
  unfold claimArrives
  rw [if_pos h]

theorem claimArrives_of_fails {b : Bay} {c : Claim} {s : State} (h : s.ctx[b].state ≠ .empty)
    (hs : screenPasses s.ctx[b] c = false) :
    claimArrives b c s = (postTagFault b c.claimant .screened s, some .denied) := by
  unfold claimArrives
  rw [if_neg h, if_neg (Bool.eq_false_iff.mp hs)]

/-! ### The statement -/

/-- Settles O48: the screen by command and claimant, and the three fates of a claim by the lemmas above. -/
theorem writeScreenPassesOnlyItsShapes : Obligations.WriteScreenPassesOnlyItsShapes := by
  unfold Obligations.WriteScreenPassesOnlyItsShapes
  refine ⟨fun x c => ?_, fun b c s => ⟨claimArrives_of_empty, claimArrives_of_fails, claimArrives_of_passes⟩⟩
  cases hc : c.command with
  | peek => simp [screenPasses_peek hc]
  | prove => simp [screenPasses_prove hc]
  | store =>
    cases hw : c.claimant with
    | admission => simp [screenPasses_store_admission hc hw]
    | commit => simp [screenPasses_store_commit hc hw]
    | mark => simp [screenPasses_store_mark hc hw]
    | link => simp [screenPasses_store_link hc hw]

end Sys2Proof.Machine
end

section
/-! SUPPORT. An edge of a presence line by the bay's state, the part state and the absence timer (R22 to R25). -/

namespace Sys2Proof.Machine

section
variable {b : Bay} {s : State}

/-! ### The two commands on a powered part -/

theorem exec_presenceAsserted_of_powered {t : State} (h : s.powered = true)
    (hrises : presenceRises b (s.modPins fun p => { p with presence := upd p.presence b fun _ => true }) = t) :
    exec (.presenceAsserted b) s = .next t :=
  congrArg Host.Outcome.next ((whenPowered_on (presenceRises b) (s.modPins _) h).trans hrises)

theorem exec_presenceDropped_of_powered {t : State} (h : s.powered = true)
    (hdrops : presenceDrops b (s.modPins fun p => { p with presence := upd p.presence b fun _ => false }) = t) :
    exec (.presenceDropped b) s = .next t :=
  congrArg Host.Outcome.next ((whenPowered_on (presenceDrops b) (s.modPins _) h).trans hdrops)

/-! ### The line is asserted -/

/-- R23: a cartridge arrives. -/
theorem presenceRises_of_empty_ready (hempty : s.ctx[b].state = .empty) (hready : s.part = .ready) :
    presenceRises b s = enterSettling b s := by
  simp only [presenceRises, if_pos hempty, if_pos hready]

/-- R22: outside READY no cartridge is admitted. -/
theorem presenceRises_of_empty_not_ready (hempty : s.ctx[b].state = .empty) (hready : s.part ≠ .ready) :
    presenceRises b s = s := by
  simp only [presenceRises, if_pos hempty, if_neg hready]

/-- R22, R23: an assertion that ends no absence. -/
theorem presenceRises_of_seated_idle (hseated : s.ctx[b].state ≠ .empty)
    (hidle : ¬(s.part = .ready ∨ s.part = .drain) ∨ s.ctx[b].absence = .stopped) : presenceRises b s = s := by
  simp only [presenceRises, if_neg hseated]
  split
  · rfl
  · next hacts => rw [if_pos (hidle.resolve_left fun h => hacts (not_or.mp h))]

/-- R24, R25: an assertion that ends an absence stops the absence timer, and in SETTLING starts the settling again. -/
theorem presenceRises_of_seated_absent (hseated : s.ctx[b].state ≠ .empty)
    (hacts : s.part = .ready ∨ s.part = .drain) (habsent : s.ctx[b].absence ≠ .stopped) : presenceRises b s =
      if s.ctx[b].state = .settling then
        s.modCtx b fun c => { c with absence := .stopped, settle := .running Config.settleUs }
      else s.modCtx b fun c => { c with absence := .stopped } := by
  have hpart : ¬(s.part ≠ .ready ∧ s.part ≠ .drain) := fun h => not_or.mpr h hacts
  simp only [presenceRises, if_neg hseated, if_neg hpart, if_neg habsent]

/-! ### The line drops -/

/-- R24, R25: an absence begins. -/
theorem presenceDrops_of_seated (hseated : s.ctx[b].state ≠ .empty) (hacts : s.part = .ready ∨ s.part = .drain) :
    presenceDrops b s = s.modCtx b fun c => { c with settle := .stopped, absence := .running Config.absenceUs } := by
  have hpart : ¬(s.part ≠ .ready ∧ s.part ≠ .drain) := fun h => not_or.mpr h hacts
  exact if_neg (not_or.mpr ⟨hseated, hpart⟩)

/-- R22: a drop that is ignored. -/
theorem presenceDrops_of_ignored (h : s.ctx[b].state = .empty ∨ ¬(s.part = .ready ∨ s.part = .drain)) :
    presenceDrops b s = s :=
  if_pos (h.imp_right not_or.mp)

end

/-! ### The statement -/

/-- Settles O17: each case is the rise's or the drop's own lemma, read of the state with the line's new level. -/
theorem presenceEdgesAreDebounced : Obligations.PresenceEdgesAreDebounced := by
  unfold Obligations.PresenceEdgesAreDebounced
  intro b s hpowered
  refine ⟨fun hempty hready => ?arrives, fun hempty hready => ?notAdmitted, fun hseated hidle => ?noAbsence,
    fun hsettling hacts habsent => ?settlesAgain, fun hseated hother hacts habsent => ?absenceEnds,
    fun hseated hacts => ?absenceBegins, fun hignored => ?ignored⟩
  case arrives => exact exec_presenceAsserted_of_powered hpowered (presenceRises_of_empty_ready hempty hready)
  case notAdmitted => exact exec_presenceAsserted_of_powered hpowered (presenceRises_of_empty_not_ready hempty hready)
  case noAbsence => exact exec_presenceAsserted_of_powered hpowered (presenceRises_of_seated_idle hseated hidle)
  case settlesAgain =>
    have hseated : s.ctx[b].state ≠ .empty := hsettling ▸ by decide
    exact exec_presenceAsserted_of_powered hpowered
      (Eq.trans (presenceRises_of_seated_absent hseated hacts habsent) (if_pos hsettling))
  case absenceEnds =>
    exact exec_presenceAsserted_of_powered hpowered
      (Eq.trans (presenceRises_of_seated_absent hseated hacts habsent) (if_neg hother))
  case absenceBegins => exact exec_presenceDropped_of_powered hpowered (presenceDrops_of_seated hseated hacts)
  case ignored => exact exec_presenceDropped_of_powered hpowered (presenceDrops_of_ignored hignored)

end Sys2Proof.Machine
end

section
/-! SUPPORT. The planes, and what the drop meter makes of a byte (R42 to R46). -/

namespace Sys2Proof.Machine

/-! ### The plane that covers an address (R42) -/

/-- R42: an enabled plane covers the addresses from its base on, its length of them. -/
def PlaneEntry.Covers (e : PlaneEntry) (a : Addr24) : Prop :=
  e.enabled = true ∧ e.base ≤ a.toNat ∧ a.toNat < e.base + e.length

theorem PlaneEntry.covers_iff {e : PlaneEntry} {a : Addr24} :
    e.Covers a ↔ e.enabled = true ∧ e.base ≤ a.toNat ∧ a.toNat < e.last := Iff.rfl

section
variable {p : Profile} {a : Addr24}

theorem planeAt_eq_none_iff : planeAt p a = none ↔ ∀ e ∈ p.planes, ¬e.Covers a := by
  simp [planeAt, PlaneEntry.covers_iff]

theorem planeAt_eq_some {e : PlaneEntry} (h : planeAt p a = some e) : e ∈ p.planes ∧ e.Covers a :=
  ⟨List.mem_of_find?_eq_some h, by simpa [PlaneEntry.covers_iff, and_assoc] using List.find?_some h⟩

/-- Where the planes that cover the address are all of one bay, the plane found is of that bay. -/
theorem planeAt_of_covered {b : Bay} (hcov : ∃ e ∈ p.planes, e.Covers a)
    (hbay : ∀ e ∈ p.planes, e.Covers a → e.bay = b) : ∃ e, planeAt p a = some e ∧ e.bay = b := by
  cases hfound : planeAt p a with
  | none =>
    obtain ⟨e, hmem, hcovers⟩ := hcov
    exact absurd hcovers (planeAt_eq_none_iff.mp hfound e hmem)
  | some e =>
    obtain ⟨hmem, hcovers⟩ := planeAt_eq_some hfound
    exact ⟨e, rfl, hbay e hmem hcovers⟩

end

/-! ### The volume of a plane byte (R43) -/

theorem codeWeight_eq_ite (w : BaySettings) (code : Nat) : codeWeight w code =
    if code = 1 then w.small else if code = 2 then w.medium else if code = 3 then w.large else 0 := by
  match code with
  | 0 | 1 | 2 | 3 => rfl
  | _ + 4 => simp [codeWeight]

theorem byteVolume_eq_add (w : BaySettings) (v : Byte) : byteVolume w v =
    codeWeight w (v.toNat % 4) + codeWeight w (v.toNat / 4 % 4) + codeWeight w (v.toNat / 16 % 4) +
      codeWeight w (v.toNat / 64) := by
  simp [byteVolume, dropCodes, Nat.add_assoc]

section
variable {s : State} {p : Profile} {a : Addr24} {v : Byte} {b : Bay}

theorem State.profile_of_copies (hcopies : s.copies = some p) : s.profile = p := by
  simp [State.profile, hcopies]

/-! ### A counted byte (R45) -/

theorem countByte_of_fits (h : s.meter.tally[b] + byteVolume s.profile.bays[b] v ≤ 2 ^ 48 - 1) :
    countByte b v s = ({ s with meter := { s.meter with
      tally := upd s.meter.tally b fun x => x + byteVolume s.profile.bays[b] v } }, v) := by
  have htally : (upd s.meter.tally b fun _ => s.meter.tally[b] + byteVolume s.profile.bays[b] v) =
      upd s.meter.tally b fun x => x + byteVolume s.profile.bays[b] v := upd_congr rfl
  unfold countByte
  rw [if_pos (show _ ≤ Config.tallyMax from h), htally]

theorem countByte_of_saturates (h : 2 ^ 48 - 1 < s.meter.tally[b] + byteVolume s.profile.bays[b] v) :
    countByte b v s = (post .tallySaturated (some b) []
      { s with meter := { s.meter with saturated := upd s.meter.saturated b fun _ => true } }, 0x00#8) :=
  if_neg (Nat.not_le.mpr h)

/-! ### A plane byte in READY, by the tracker and the gate (R44, R46) -/

/-- R46: outside an open swath the read is a stray one. -/
theorem meterPlane_of_no_open_swath (h : s.tracker.state ≠ .openSwath) :
    meterPlane b a v s = (post .strayRead (some b) (toLE 3 a.toNat) s, 0x00#8) := by
  unfold meterPlane
  cases hstate : s.tracker.state with
  | noSwath => rfl
  | openSwath => exact absurd hstate h
  | waitLow => rfl

theorem meterPlane_of_blanked (hopen : s.tracker.state = .openSwath)
    (h : s.tracker.gate[b] = false ∨ s.meter.saturated[b] = true) : meterPlane b a v s = (s, 0x00#8) := by
  have hblank : ¬(s.tracker.gate[b] && !s.meter.saturated[b]) = true := by
    rw [Bool.and_eq_true, not_and_or, Bool.not_eq_true, Bool.not_eq_true, Bool.not_eq_false']
    exact h
  simp only [meterPlane, hopen, if_neg hblank]

theorem meterPlane_of_counted (hopen : s.tracker.state = .openSwath) (hgate : s.tracker.gate[b] = true)
    (hsat : s.meter.saturated[b] = false) : meterPlane b a v s = countByte b v s := by
  have hcount : (s.tracker.gate[b] && !s.meter.saturated[b]) = true := by rw [hgate, hsat]; rfl
  simp only [meterPlane, hopen, if_pos hcount]

/-! ### A byte read, by the part state and the plane (R44) -/

/-- R44: without a plane table every byte is blanked. -/
theorem meterByte_of_no_table (h : s.part = .loading ∨ s.part = .noProfile ∨ s.copies = none) :
    meterByte a v s = (s, 0x00#8) := by
  unfold meterByte
  obtain hpart | hpart | hcopies := h
  · rw [hpart]
  · rw [hpart]
  · rw [hcopies]
    cases s.part <;> rfl

/-- R44: a pass-through byte is returned as it was read. -/
theorem meterByte_of_pass_through (hcopies : s.copies = some p)
    (hpart : s.part = .ready ∨ s.part = .drain ∨ s.part = .drained) (hplane : planeAt p a = none) :
    meterByte a v s = (s, v) := by
  unfold meterByte
  rw [hcopies]
  obtain hpart | hpart | hpart := hpart <;> simp [hpart, hplane]

section
variable {e : PlaneEntry} (hcopies : s.copies = some p) (hplane : planeAt p a = some e)
include hcopies hplane

/-- R44: outside READY a plane byte is blanked. -/
theorem meterByte_of_plane_draining (hpart : s.part = .drain ∨ s.part = .drained) :
    meterByte a v s = (s, 0x00#8) := by
  unfold meterByte
  rw [hcopies]
  obtain hpart | hpart := hpart <;> simp [hpart, hplane]

theorem meterByte_of_plane_ready (hpart : s.part = .ready) : meterByte a v s = meterPlane e.bay a v s := by
  simp only [meterByte, hcopies, hpart, hplane]

end
end

/-! ### The statement -/

/-- Settles O30: the plane found fixes the bay, and each row of the table is the lemma of its case. -/
theorem meterFollowsItsTable : Obligations.MeterFollowsItsTable := by
  unfold Obligations.MeterFollowsItsTable
  intro a v s covers
  refine ⟨meterByte_of_no_table, fun p hcopies hpart =>
    ⟨fun hnone => meterByte_of_pass_through hcopies hpart (planeAt_eq_none_iff.mpr hnone), ?_⟩⟩
  intro b hcov hbay weight n volume
  obtain ⟨e, hplane, rfl⟩ := planeAt_of_covered hcov hbay
  have hvolume : byteVolume s.profile.bays[e.bay] v = volume := by
    rw [State.profile_of_copies hcopies, byteVolume_eq_add]
    simp only [codeWeight_eq_ite, volume, weight, n]
  have hready (h : s.part = .ready) : meterByte a v s = meterPlane e.bay a v s :=
    meterByte_of_plane_ready hcopies hplane h
  refine ⟨fun hdrains => ?draining, fun h hstate => ?stray, fun h hopen =>
    ⟨fun hshut => ?blanked, fun hgate hsat => ⟨fun hfits => ?counted, fun hover => ?saturates⟩⟩⟩
  case draining => exact meterByte_of_plane_draining hcopies hplane (hpart.resolve_left hdrains)
  case stray => exact (hready h).trans (meterPlane_of_no_open_swath hstate)
  case blanked => exact (hready h).trans (meterPlane_of_blanked hopen hshut)
  case counted =>
    rw [hready h, meterPlane_of_counted hopen hgate hsat, countByte_of_fits (hvolume ▸ hfits), hvolume]
  case saturates =>
    rw [hready h, meterPlane_of_counted hopen hgate hsat, countByte_of_saturates (hvolume ▸ hover)]

end Sys2Proof.Machine
end

section
/-! SUPPORT. When a commit is due: the bay and the part that admit one, and R84's two tests. -/

namespace Sys2Proof.Machine

/-! ### The bay context's conditions -/

theorem BayState.settled_iff {x : BayState} :
    x.settled = true ↔ x = .admitted ∨ x = .limited ∨ x = .blocked := by
  cases x <;> simp [BayState.settled]

theorem Sticky.any_eq_false_iff {f : Sticky} : f.any = false ↔ f = ⟨false, false⟩ := by
  obtain ⟨commitError, countSpent⟩ := f
  simp [Sticky.any]

/-! ### The two tests -/

section
variable {s : State} {b : Bay} {e : EntryIx}

theorem stepDue_iff : stepDue s b e = true ↔
    s.profile.bays[b].commitStep * 10 ^ 9 ≤ s.waitingVolume b + s.registry.entries[e].saved.residue :=
  decide_eq_true_iff

theorem flushDue_iff : flushDue s b = true ↔
    s.tracker.state ≠ .openSwath ∧ s.commits[b].flush = .elapsed ∧ 0 < s.waitingVolume b := by
  simp [flushDue, and_assoc]

/-! ### The judgement -/

/-- R84's conditions on the bay and the part, before either test: the bay is ADMITTED, LIMITED or BLOCKED without a
sticky fault, its commit state IDLE, and the part READY. -/
def CommitOpen (s : State) (b : Bay) : Prop :=
  (s.ctx[b].state = .admitted ∨ s.ctx[b].state = .limited ∨ s.ctx[b].state = .blocked) ∧
    s.ctx[b].sticky = ⟨false, false⟩ ∧ s.commits[b].state = .idle ∧ s.part = .ready

theorem commitOpen_iff : CommitOpen s b ↔
    (s.ctx[b].state.settled && !s.ctx[b].sticky.any && s.commits[b].state == .idle && s.part == .ready) = true := by
  simp [CommitOpen, BayState.settled_iff, Sticky.any_eq_false_iff, and_assoc]

theorem commitDue_of_not_open (h : ¬CommitOpen s b) : commitDue s b = none :=
  if_neg fun hcond => h (commitOpen_iff.mpr hcond)

/-- In a bay where a commit may start, either test makes it due on the owner. -/
theorem commitDue_of_open (h : CommitOpen s b) (hown : s.ctx[b].owner = some e) :
    commitDue s b = if stepDue s b e || flushDue s b then some e else none := by
  unfold commitDue
  rw [if_pos (commitOpen_iff.mp h), hown]

theorem commitDue_eq_some_iff (hown : s.ctx[b].owner = some e) :
    commitDue s b = some e ↔ CommitOpen s b ∧ (stepDue s b e = true ∨ flushDue s b = true) := by
  by_cases hopen : CommitOpen s b
  · rw [commitDue_of_open hopen hown, ← Bool.or_eq_true]
    simp only [hopen, true_and, Option.ite_none_right_eq_some, and_true]
  · simp [commitDue_of_not_open hopen, hopen]

/-- No commit is due for an entry other than the owner. -/
theorem commitDue_eq_none_of_ne (hown : s.ctx[b].owner = some e) (hne : commitDue s b ≠ some e) :
    commitDue s b = none := by
  by_cases hopen : CommitOpen s b
  · rw [commitDue_of_open hopen hown] at hne ⊢
    exact if_neg fun htest => hne (if_pos htest)
  · exact commitDue_of_not_open hopen

end

/-! ### The statement -/

/-- Settles O54: the judgement for the owner, each of its conditions read by its own equivalence. -/
theorem commitDueExactlyWhen : Obligations.CommitDueExactlyWhen := by
  unfold Obligations.CommitDueExactlyWhen
  intro b e s hown waits
  refine ⟨?due, commitDue_eq_none_of_ne hown⟩
  case due =>
    rw [commitDue_eq_some_iff hown, stepDue_iff, flushDue_iff]
    simp only [CommitOpen, and_assoc]
    rfl

end Sys2Proof.Machine
end

section
/-! SUPPORT. The bytes that arrive while a transaction is outstanding, and the quiet after them (R142). -/

namespace Sys2Proof.Machine

section
variable {v : Byte} {c : Instr} {s : State}

/-! ### The commands on a powered part -/

/-- Whichever of the table's three rows brings a byte of the carriage link, the port's state says what it does
(notes/assumptions/9). -/
theorem exec_linkByte_of_powered (h : s.powered = true)
    (hc : c = .linkFrameByte v ∨ c = .linkRequest v ∨ c = .linkOverrunByte v) :
    exec c s = .next (linkByteArrives v s) := by
  have runs : exec c s = .next (whenPowered (linkByteArrives v) s) := by
    obtain rfl | rfl | rfl := hc <;> rfl
  rw [runs, whenPowered_on _ _ h]

theorem exec_overrunQuietExpiry_of_powered (h : s.powered = true) :
    exec .overrunQuietExpiry s = .next (overrunQuietExpires s) :=
  congrArg Host.Outcome.next (whenPowered_on _ _ h)

/-! ### A byte that the port does not take -/

theorem linkByteArrives_of_outstanding (hreset : s.pins.resetN = false)
    (hstate : s.link.state = .awaitingService ∨ s.link.state = .responding) :
    linkByteArrives v s = overrunByte s := by
  obtain hstate | hstate := hstate <;> simp [linkByteArrives, hreset, hstate]

theorem linkByteArrives_of_idle_marked (hreset : s.pins.resetN = false) (hidle : s.link.state = .idle)
    (hmark : s.link.overrun = true) :
    linkByteArrives v s = s.modLink fun p => { p with quietTimer := .running Config.overrunQuietUs } := by
  simp [linkByteArrives, hreset, hidle, hmark]

/-! ### The overrun mark -/

theorem postLinkError_busy : postLinkError .busy s = post .linkError none [0x02#8] s := rfl

theorem overrunByte_of_marked (hmark : s.link.overrun = true) :
    overrunByte s = s.modLink fun p => { p with overrun := true, quietTimer := .running Config.overrunQuietUs } :=
  if_pos hmark

theorem overrunByte_of_unmarked (hmark : s.link.overrun = false) :
    overrunByte s = post .linkError none [0x02#8]
      (s.modLink fun p => { p with overrun := true, quietTimer := .running Config.overrunQuietUs }) := by
  rw [← postLinkError_busy]
  exact if_neg (ne_true_of_eq_false hmark)

end

/-! ### The statement -/

/-- Settles O34: a byte of an outstanding transaction by the overrun mark, a byte in IDLE under the mark, and the quiet
timer's expiry. -/
theorem overrunBytesAreIgnored : Obligations.OverrunBytesAreIgnored := by
  unfold Obligations.OverrunBytesAreIgnored
  intro s hpowered
  refine ⟨?outstanding, ?idle, exec_overrunQuietExpiry_of_powered hpowered⟩
  case outstanding =>
    intro v c hc hreset hstate
    rw [exec_linkByte_of_powered hpowered hc, linkByteArrives_of_outstanding hreset hstate]
    exact ⟨fun hmark => congrArg Host.Outcome.next (overrunByte_of_marked hmark),
      fun hmark => congrArg Host.Outcome.next (overrunByte_of_unmarked hmark)⟩
  case idle =>
    intro v c hc hreset hidle hmark
    rw [exec_linkByte_of_powered hpowered hc, linkByteArrives_of_idle_marked hreset hidle hmark]
    rfl

end Sys2Proof.Machine
end

section
/-! SUPPORT. A command as the levels it brings and the work it does with power on; the invariant over every step. -/

namespace Sys2Proof.Machine

/-! ### A command as levels and work -/

/-- The level a command brings to the part's lines. -/
def levelsOf : Instr → Pins → Pins
  | .supplyFailAsserted, p => { p with supplyFail := true }
  | .supplyFailDeasserted, p => { p with supplyFail := false }
  | .linkReset, p => { p with resetN := true }
  | .resetNDeasserted, p => { p with resetN := false }
  | .presenceAsserted b, p => { p with presence := upd p.presence b fun _ => true }
  | .presenceDropped b, p => { p with presence := upd p.presence b fun _ => false }
  | .swathRise, p => { p with swath := true }
  | .swathFall, p => { p with swath := false }
  | _, p => p

/-- What a command other than POWER_ON_RESET makes the part do while it is powered, its level already seen. -/
def workOf : Instr → State → State
  | .powerOnReset => id
  | .powerLoss => losePower
  | .profileReadDone image => profileRead image
  | .registryLoadDone un hu => registryLoaded un hu
  | .supplyFailAsserted => supplyFails
  | .supplyFailDeasserted => supplyReturns
  | .linkReset => linkResets
  | .presenceAsserted b => presenceRises b
  | .presenceDropped b => presenceDrops b
  | .settleTimerExpiry b => settleExpires b
  | .absenceTimerExpiry b => fun s => finish (absenceExpires b s)
  | .swathRise => fun s => finish (swathRises s)
  | .swathFall => fun s => finish (swathFalls s)
  | .swathLimitExpiry => fun s => finish (swathSplit s)
  | .fireBurst start len => burstOffered start len
  | .fireByte => fireByteRead
  | .linkBurstDone => linkBurstCompletes
  | .linkRequest v | .linkFrameByte v | .linkOverrunByte v => linkByteArrives v
  | .linkBadframeTimeout => badFrameExpires
  | .linkStall => stallExpires
  | .overrunQuietExpiry => overrunQuietExpires
  | .linkResponseSent => responseSent
  | .quietWaitElapsed b => State.modLine b LineUnit.quietElapsed
  | .tagStrayByte b => lineHeard b
  | .requestSent b => requestGone b
  | .tagReply b a => fun s => finish (replyArrives b a s)
  | .replyTimeout b begun => fun s => finish (replyMissing b begun s)
  | .pollTimerExpiry b => pollExpires b
  | .completionLimitExpiry b => fun s => finish (limitExpires b s)
  | .proofServiceDone => fun s => finish (serviceEnds s)
  | .idleFlushExpiry b => fun s => finish (flushElapsed b s)
  | .registryWriteComplete ok => writeEnds ok
  | .noticeFrameSent => frameSent
  | .resetNDeasserted => id

theorem exec_powerOnReset (s : State) : exec .powerOnReset s = .next (powerOn s) := rfl

/-- Every command but POWER_ON_RESET brings its level and, with power on, does its work. -/
theorem exec_of_wellFormed {c : Instr} (s : State) (hc : c ≠ .powerOnReset) (hwf : c.wellFormed = true) :
    exec c s = .next (whenPowered (workOf c) (s.modPins (levelsOf c))) := by
  cases c with
  | powerOnReset => exact absurd rfl hc
  | fireBurst start len =>
    simp only [Instr.wellFormed, Bool.and_eq_true, decide_eq_true_eq] at hwf
    exact if_pos hwf
  | profileReadDone image => exact if_pos (of_decide_eq_true hwf)
  | tagReply b a =>
    have hbytes : a.bytes ≠ [] := by
      intro h
      simp [Instr.wellFormed, h] at hwf
    exact if_neg hbytes
  | resetNDeasserted =>
    show Host.Outcome.next _ = .next (whenPowered id _)
    unfold whenPowered
    split <;> rfl
  | _ => rfl

/-- With power on, a command that brings no level does its work on the state as it stands. -/
theorem exec_of_powered {c : Instr} {s : State} (hc : c ≠ .powerOnReset) (hwf : c.wellFormed = true)
    (hpow : s.powered = true) : exec c s = .next (workOf c (s.modPins (levelsOf c))) := by
  rw [exec_of_wellFormed s hc hwf, whenPowered_on _ (s.modPins (levelsOf c)) hpow]

/-- A term outside the rules' ranges is refused. -/
theorem exec_of_not_wellFormed {c : Instr} (s : State) (hwf : c.wellFormed = false) :
    ∃ m : String, exec c s = .refused (.notACommand m) := by
  cases c with
  | fireBurst start len =>
    refine ⟨_, if_neg ?_⟩
    simpa [Instr.wellFormed] using hwf
  | profileReadDone image => exact ⟨_, if_neg (of_decide_eq_false hwf)⟩
  | tagReply b a => exact ⟨_, if_pos (by simpa [Instr.wellFormed] using hwf)⟩
  | _ => simp [Instr.wellFormed] at hwf

/-- A command that answers a next state is POWER_ON_RESET, or brings its level and does its work. -/
theorem exec_next_cases {c : Instr} {s t : State} (h : exec c s = .next t) :
    t = powerOn s ∨ t = s.modPins (levelsOf c) ∨ (s.powered = true ∧ t = workOf c (s.modPins (levelsOf c))) := by
  by_cases hc : c = .powerOnReset
  · subst hc
    rw [exec_powerOnReset] at h
    exact .inl (Host.Outcome.next.inj h).symm
  · cases hwf : c.wellFormed with
    | false =>
      obtain ⟨m, hm⟩ := exec_of_not_wellFormed s hwf
      rw [hm] at h
      cases h
    | true =>
      cases hpow : s.powered with
      | false =>
        rw [exec_of_wellFormed s hc hwf, whenPowered_off _ (s.modPins (levelsOf c)) hpow] at h
        exact .inr (.inl (Host.Outcome.next.inj h).symm)
      | true =>
        rw [exec_of_powered hc hwf hpow] at h
        exact .inr (.inr ⟨rfl, (Host.Outcome.next.inj h).symm⟩)

/-- A step runs the command at the front, or idles. -/
theorem step_cases {s t : State} (h : step s = .next t) :
    t = s ∨ ∃ (c : Instr) (cs : List Instr), s.pending = c :: cs ∧ exec c { s with pending := cs } = .next t := by
  unfold step at h
  split at h
  · exact .inl (Host.Outcome.next.inj h).symm
  · next c cs hq => exact .inr ⟨c, cs, hq, h⟩

/-! ### The invariant over every command -/

/-- With power on, no command's work breaks the invariant. -/
theorem PartInv.work {s : State} (h : PartInv s) (c : Instr) : PartInv (workOf c s) := by
  cases c with
  | powerOnReset => exact h
  | powerLoss => exact .losePower
  | profileReadDone image => exact h.profileRead image
  | registryLoadDone un hu => exact h.registryLoaded un hu
  | supplyFailAsserted =>
    show PartInv (supplyFails s)
    unfold supplyFails
    split
    · exact h.enterDrain.finish
    · exact h
  | supplyFailDeasserted =>
    show PartInv (supplyReturns s)
    unfold supplyReturns
    split
    · exact h.restart
    · exact h
  | linkReset => exact h.linkResets
  | presenceAsserted b => exact h.keeps (keeps_presenceRises s b)
  | presenceDropped b => exact h.keeps (keeps_presenceDrops s b)
  | settleTimerExpiry b => exact h.keeps (keeps_settleExpires s b)
  | absenceTimerExpiry b => exact (h.keeps (keeps_absenceExpires s b)).finish
  | swathRise => exact h.swathRises.finish
  | swathFall => exact h.swathFalls.finish
  | swathLimitExpiry => exact h.swathSplit.finish
  | fireBurst start len => exact h.burstOffered start len
  | fireByte => exact h.fireByteRead
  | linkBurstDone => exact h.linkBurstCompletes
  | linkRequest v => exact h.linkByteArrives v
  | linkFrameByte v => exact h.linkByteArrives v
  | linkOverrunByte v => exact h.linkByteArrives v
  | linkBadframeTimeout => exact h.keeps (keeps_badFrameExpires s)
  | linkStall => exact h.keeps (keeps_stallExpires s)
  | overrunQuietExpiry => exact h.keeps (keeps_overrunQuietExpires s)
  | linkResponseSent => exact h.keeps (keeps_responseSent s)
  | quietWaitElapsed b => exact h.keeps (keeps_modLine s b _)
  | tagStrayByte b => exact h.keeps (keeps_lineHeard s b)
  | requestSent b => exact h.keeps (keeps_requestGone s b)
  | tagReply b a => exact (h.keeps (keeps_replyArrives s b a)).finish
  | replyTimeout b begun => exact (h.keeps (keeps_replyMissing s b begun)).finish
  | pollTimerExpiry b => exact h.keeps (keeps_pollExpires s b)
  | completionLimitExpiry b => exact (h.keeps (keeps_limitExpires s b)).finish
  | proofServiceDone => exact (h.keeps (keeps_serviceEnds s)).finish
  | idleFlushExpiry b => exact (h.keeps (keeps_flushElapsed s b)).finish
  | registryWriteComplete ok => exact h.writeEnds ok
  | noticeFrameSent => exact h.frameSent
  | resetNDeasserted => exact h

theorem PartInv.exec {c : Instr} {s t : State} (h : PartInv s) (ht : exec c s = .next t) : PartInv t := by
  have hlevels : PartInv (s.modPins (levelsOf c)) := h.congr rfl rfl rfl rfl rfl
  obtain rfl | rfl | ⟨-, rfl⟩ := exec_next_cases ht
  · exact .powerOn
  · exact hlevels
  · exact hlevels.work c

/-- Settles O60: the idle step changes nothing, and every command keeps the invariant. -/
theorem everyStepKeepsTheInvariant : Obligations.EveryStepKeepsTheInvariant := by
  unfold Obligations.EveryStepKeepsTheInvariant
  intro s t h ht
  obtain rfl | ⟨c, cs, -, hexec⟩ := step_cases ht
  · exact h
  · have hqueue : PartInv { s with pending := cs } := h.congr rfl rfl rfl rfl rfl
    exact hqueue.exec hexec

end Sys2Proof.Machine
end

section
/-! SUPPORT. The queue of commands, which no work touches; a part without power; reset and power. -/

namespace Sys2Proof.Machine

/-! ### The queue of commands through the acts of the part -/

theorem finish_pending (s : State) : (finish s).pending = s.pending := by
  have hw := (keeps_writerTurn s false).pending
  unfold finish
  dsimp only
  split
  · unfold enterDrained
    dsimp only
    split
    · rw [post_pending]; exact hw
    · show (post _ _ _ _).pending = _
      rw [post_pending]; exact hw
  · exact hw

theorem swathStart_pending (s : State) : (swathStart s).pending = s.pending := by
  rw [swathStart_eq]
  exact (keeps_forBays _ judge fun b t => keeps_judge t b).pending

/-- What a swath end leaves of the outer state: only the tracker's limit, gates and owners move (R52). -/
theorem swathEnd_outer (s : State) : (swathEnd s).outer = { s.outer with
    tracker := { s.tracker with limit := .stopped, gate := .replicate 8 false, owner := .replicate 8 none } } := by
  have hhand := (keeps_forBays { s with tracker := { s.tracker with limit := .stopped } } handover
    fun b t => keeps_handover t b).outer
  rw [swathEnd_eq]
  dsimp only
  rw [(keeps_forBays _ judge fun b t => keeps_judge t b).outer]
  generalize forBays handover { s with tracker := { s.tracker with limit := .stopped } } = h at hhand ⊢
  simp only [State.outer, Outer.mk.injEq] at hhand ⊢
  obtain ⟨h1, h2, h3, h4, h5, h6, h7, h8, h9, h10, h11, h12, h13⟩ := hhand
  exact ⟨h1, h2, h3, h4, h5, h6, h7, h8, by rw [h9], h10, h11, h12, h13⟩

theorem swathEnd_pending (s : State) : (swathEnd s).pending = s.pending := by
  have h := swathEnd_outer s
  generalize swathEnd s = t at h ⊢
  exact congrArg Outer.pending h

theorem swathEndTo_pending (next : TrackerState) (s : State) : (swathEndTo next s).pending = s.pending := by
  unfold swathEndTo
  dsimp only
  exact swathEnd_pending s

theorem swathForcedEnd_pending (s : State) : (swathForcedEnd s).pending = s.pending := by
  unfold swathForcedEnd
  split
  · exact swathEndTo_pending _ s
  · rfl

theorem swathRises_pending (s : State) : (swathRises s).pending = s.pending := by
  unfold swathRises
  split
  · exact swathStart_pending s
  · rfl

theorem swathFalls_pending (s : State) : (swathFalls s).pending = s.pending := by
  unfold swathFalls
  split
  · exact swathEndTo_pending _ s
  · rfl
  · rfl

theorem swathSplit_pending (s : State) : (swathSplit s).pending = s.pending := by
  unfold swathSplit
  split
  · rw [post_pending, swathStart_pending, swathEnd_pending]
  · rfl

theorem arbServe_pending (s : State) : (arbServe s).pending = s.pending := by
  unfold arbServe serveFire serveLink
  repeat' split
  all_goals rfl

theorem meterByte_pending (a : Addr24) (v : Byte) (s : State) : (meterByte a v s).1.pending = s.pending := by
  have counted (b : Bay) : (countByte b v s).1.pending = s.pending := by
    unfold countByte
    dsimp only
    split
    · rfl
    · exact post_pending ..
  have planed (b : Bay) : (meterPlane b a v s).1.pending = s.pending := by
    unfold meterPlane
    split
    · split
      · exact counted b
      · rfl
    · exact post_pending ..
    · exact post_pending ..
  unfold meterByte
  split
  case h_4 =>
    split
    · exact planed _
    · rfl
  all_goals rfl

theorem fireByteRead_pending (s : State) : (fireByteRead s).pending = s.pending := by
  unfold fireByteRead
  split
  · rfl
  · next f _ =>
    have hm := meterByte_pending f.next (Memory.read s.sram f.next.toNat) s
    dsimp only
    split
    · exact (arbServe_pending _).trans hm
    · exact hm

theorem linkBurstCompletes_pending (s : State) : (linkBurstCompletes s).pending = s.pending := by
  have stored (w : Bool) (m : Memory) : (if w then { s with sram := m } else s).pending = s.pending := by
    split <;> rfl
  unfold linkBurstCompletes
  split
  · rfl
  · dsimp only
    refine (arbServe_pending _).trans ?_
    dsimp only
    split
    · exact stored _ _
    · exact (keeps_respond _ _ _).pending.trans (stored _ _)

theorem routeRequest_pending (r : LinkRequest) (s : State) : (routeRequest r s).pending = s.pending := by
  unfold routeRequest
  split
  · exact arbServe_pending _
  · exact (keeps_respond _ _ _).pending
  · exact (keeps_passThrough _ _).pending
  · exact (keeps_passThrough _ _).pending
  · exact (keeps_answerNow _ _ _).pending

theorem frameByte_pending (v : Byte) (s : State) : (frameByte v s).pending = s.pending := by
  unfold frameByte
  dsimp only
  repeat' split
  case isTrue.isTrue => exact routeRequest_pending _ _
  all_goals rfl

theorem linkByteArrives_pending (v : Byte) (s : State) : (linkByteArrives v s).pending = s.pending := by
  unfold linkByteArrives
  split
  · rfl
  · split
    · exact (keeps_overrunByte s).pending
    · exact (keeps_overrunByte s).pending
    · exact frameByte_pending v s
    · split
      · rfl
      · exact frameByte_pending v s

theorem profileRead_pending (image : List Byte) (s : State) : (profileRead image s).pending = s.pending := by
  unfold profileRead
  split
  · split
    · exact post_pending ..
    · rfl
  · rfl

theorem enterReady_pending (s : State) : (enterReady s).pending = s.pending := by
  unfold enterReady
  dsimp only
  rw [(keeps_forBays _ _ fun b t => keeps_ite t _ (keeps_enterSettling t b) (.refl t)).pending,
    (keeps_forBays _ judge fun b t => keeps_judge t b).pending,
    (keeps_forBays _ startFlush fun b t => keeps_startFlush t b).pending]
  exact post_pending ..

theorem registryLoaded_pending (un : List EntryIx) (hu : Bool) (s : State) :
    (registryLoaded un hu s).pending = s.pending := by
  have hl := (keeps_loadRegistry un hu s).pending
  unfold registryLoaded
  split
  · dsimp only
    split
    · exact (finish_pending _).trans hl
    · exact ((finish_pending _).trans (enterReady_pending _)).trans hl
  · rfl

theorem enterDrain_pending (s : State) : (enterDrain s).pending = s.pending := by
  unfold enterDrain
  exact (keeps_drainRest _).pending.trans (swathForcedEnd_pending _)

theorem supplyFails_pending (s : State) : (supplyFails s).pending = s.pending := by
  unfold supplyFails
  split
  · exact (finish_pending _).trans (enterDrain_pending s)
  · rfl

theorem writeReported_pending (ok : Bool) (w : Snapshot) (s : State) : (writeReported ok w s).pending = s.pending := by
  unfold writeReported
  dsimp only
  repeat' split
  all_goals first | rfl | exact post_pending ..

theorem writeEnds_pending (ok : Bool) (s : State) : (writeEnds ok s).pending = s.pending := by
  unfold writeEnds
  split
  · rfl
  · rw [finish_pending, (keeps_writerTurn _ _).pending, writeReported_pending]

theorem powerOn_pending (s : State) : (powerOn s).pending = s.pending := by
  unfold powerOn
  split <;> rfl

/-- No command's work touches the queue. -/
theorem workOf_pending (c : Instr) (s : State) : (workOf c s).pending = s.pending := by
  cases c with
  | powerOnReset => rfl
  | powerLoss => rfl
  | profileReadDone image => exact profileRead_pending image s
  | registryLoadDone un hu => exact registryLoaded_pending un hu s
  | supplyFailAsserted => exact supplyFails_pending s
  | supplyFailDeasserted =>
    show (supplyReturns s).pending = _
    unfold supplyReturns
    split <;> rfl
  | linkReset => exact (finish_pending _).trans (swathForcedEnd_pending _)
  | presenceAsserted b => exact (keeps_presenceRises s b).pending
  | presenceDropped b => exact (keeps_presenceDrops s b).pending
  | settleTimerExpiry b => exact (keeps_settleExpires s b).pending
  | absenceTimerExpiry b => exact (finish_pending _).trans (keeps_absenceExpires s b).pending
  | swathRise => exact (finish_pending _).trans (swathRises_pending s)
  | swathFall => exact (finish_pending _).trans (swathFalls_pending s)
  | swathLimitExpiry => exact (finish_pending _).trans (swathSplit_pending s)
  | fireBurst start len =>
    show (burstOffered start len s).pending = _
    unfold burstOffered
    split
    · exact arbServe_pending _
    · rfl
  | fireByte => exact fireByteRead_pending s
  | linkBurstDone => exact linkBurstCompletes_pending s
  | linkRequest v => exact linkByteArrives_pending v s
  | linkFrameByte v => exact linkByteArrives_pending v s
  | linkOverrunByte v => exact linkByteArrives_pending v s
  | linkBadframeTimeout => exact (keeps_badFrameExpires s).pending
  | linkStall => exact (keeps_stallExpires s).pending
  | overrunQuietExpiry => exact (keeps_overrunQuietExpires s).pending
  | linkResponseSent => exact (keeps_responseSent s).pending
  | quietWaitElapsed b => rfl
  | tagStrayByte b => rfl
  | requestSent b => exact (keeps_requestGone s b).pending
  | tagReply b a => exact (finish_pending _).trans (keeps_replyArrives s b a).pending
  | replyTimeout b begun => exact (finish_pending _).trans (keeps_replyMissing s b begun).pending
  | pollTimerExpiry b => exact (keeps_pollExpires s b).pending
  | completionLimitExpiry b => exact (finish_pending _).trans (keeps_limitExpires s b).pending
  | proofServiceDone => exact (finish_pending _).trans (keeps_serviceEnds s).pending
  | idleFlushExpiry b => exact (finish_pending _).trans (keeps_flushElapsed s b).pending
  | registryWriteComplete ok => exact writeEnds_pending ok s
  | noticeFrameSent => exact (onlyNotices_frameSent s).pending
  | resetNDeasserted => rfl

/-- Settles O2: a command is complete by its range, and neither its level nor its work touches the queue. -/
theorem wellFormedCommandsComplete : Obligations.WellFormedCommandsComplete := by
  unfold Obligations.WellFormedCommandsComplete
  refine fun c s => ⟨fun hwf => ?_, exec_of_not_wellFormed s⟩
  by_cases hc : c = .powerOnReset
  · subst hc
    exact ⟨powerOn s, exec_powerOnReset s, powerOn_pending s⟩
  · refine ⟨_, exec_of_wellFormed s hc hwf, ?_⟩
    unfold whenPowered
    split
    · exact workOf_pending c _
    · rfl

/-! ### Steps, power and reset -/

/-- Settles O1: both halves are the two cases of `step`. -/
theorem stepRunsTheFrontCommand : Obligations.StepRunsTheFrontCommand := by
  unfold Obligations.StepRunsTheFrontCommand
  refine ⟨fun c cs s => rfl, fun s h => ?_⟩
  unfold step
  rw [h]

/-- Settles O6: without power a command's work is not done, and its level is all that moves. -/
theorem unpoweredPartMovesOnlyItsLines : Obligations.UnpoweredPartMovesOnlyItsLines := by
  unfold Obligations.UnpoweredPartMovesOnlyItsLines
  intro c s hpow hc hwf
  refine ⟨levelsOf c s.pins, ?_⟩
  rw [exec_of_wellFormed s hc hwf, whenPowered_off _ (s.modPins (levelsOf c)) hpow]
  rfl

/-- Settles O4: the reset of an unpowered part is the second branch of `powerOn`, and of a powered one its loss first. -/
theorem powerOnResetEntersLoading : Obligations.PowerOnResetEntersLoading := by
  unfold Obligations.PowerOnResetEntersLoading
  refine ⟨fun s hoff => ?_, fun s t hon ht => ?_⟩
  · rw [exec_powerOnReset, powerOn, if_neg (by simp [hoff])]
  · rw [exec_of_powered (by decide) rfl hon] at ht
    have hlost : losePower s = t := Host.Outcome.next.inj ht
    rw [exec_powerOnReset, powerOn, if_pos hon, hlost]

/-- The three conditions R118 allows for the slot whose write was cut off. -/
theorem cutWrite_entry {s : State} {e : EntryIx} {v : Saved} {c : BitVec 32}
    (hw : s.registry.write = some (.entry e v c)) :
    (cutWrite s).header = s.array.header ∧
      (∀ f : EntryIx, f ≠ e → (cutWrite s).slots[f] = s.array.slots[f]) ∧
      ((cutWrite s).slots[e] = s.array.slots[e] ∨ (cutWrite s).slots[e] = .stored v c ∨
        (cutWrite s).slots[e] = .torn) := by
  simp only [cutWrite, hw]
  refine ⟨trivial, fun f hf => upd_ne _ _ _ _ hf, ?_⟩
  rw [upd_self]
  cases Config.cutWrite s.freeCount with
  | old => exact .inl rfl
  | new => exact .inr (.inl rfl)
  | torn => exact .inr (.inr rfl)

/-- The three conditions R118 allows for the header whose write was cut off. -/
theorem cutWrite_header {s : State} {q w : Nat} {c : BitVec 32} (hw : s.registry.write = some (.header q w c)) :
    (cutWrite s).slots = s.array.slots ∧
      ((cutWrite s).header = s.array.header ∨ (cutWrite s).header = .stored q w c ∨ (cutWrite s).header = .torn) := by
  simp only [cutWrite, hw]
  refine ⟨trivial, ?_⟩
  cases Config.cutWrite s.freeCount with
  | old => exact .inl rfl
  | new => exact .inr (.inl rfl)
  | torn => exact .inr (.inr rfl)

/-- Settles O5: the array left is `cutWrite`, by what was in flight. -/
theorem powerLossKeepsOnlyTheArray : Obligations.PowerLossKeepsOnlyTheArray := by
  unfold Obligations.PowerLossKeepsOnlyTheArray
  intro s hpow
  refine ⟨cutWrite s, exec_of_powered (by decide) rfl hpow, fun hw => ?_, fun e v c => cutWrite_entry,
    fun q w c => cutWrite_header⟩
  simp only [cutWrite, hw]

/-- The links of the records at power-on run in number order to the last (R65). -/
theorem resetRecord (r : RecordIx) :
    DebitPool.reset.records[r] = { link := if r = 63 then none else some (r + 1), swath := 0, volume := 0 } := by
  have hlink : (if h : r.val + 1 < 64 then some (⟨r.val + 1, h⟩ : RecordIx) else none) =
      if r = 63 then none else some (r + 1) := by
    by_cases hr : r = 63
    · subst hr; rfl
    · have hlt : r.val + 1 < 64 := by
        have hne : r.val ≠ 63 := fun h => hr (Fin.ext h)
        omega
      rw [dif_pos hlt, if_neg hr]
      refine congrArg some (Fin.ext ?_)
      simp [Fin.val_add, Nat.mod_eq_of_lt hlt]
  simp only [DebitPool.reset, Fin.getElem_fin, Vector.getElem_ofFn]
  rw [← hlink]

/-- Settles O3: each row at reset is one value repeated, and the records are those of FREE in number order. -/
theorem powerOnValues : Obligations.PowerOnValues := by
  unfold Obligations.PowerOnValues
  refine ⟨rfl, fun b => ?_, resetRecord, rfl, fun e => ?_, rfl, rfl, rfl, rfl, rfl, rfl, rfl, rfl, rfl, rfl, rfl, rfl,
    rfl, rfl, rfl, rfl, rfl, rfl, rfl⟩
  · simp only [State.reset, DebitPool.reset, DropMeter.reset, SwathTracker.reset, LinkPort.reset, get_replicate]
    exact ⟨rfl, ⟨rfl, rfl, rfl, rfl, rfl, rfl, rfl, rfl, rfl, rfl, rfl, rfl, rfl⟩, rfl, rfl, rfl, rfl, rfl, trivial,
      trivial, trivial, trivial, trivial, trivial, trivial⟩
  · simp only [State.reset, Registry.reset, get_replicate]
    exact ⟨rfl, rfl, rfl, rfl⟩

/-- What a part has whose bays are EMPTY and whose tracker is at rest, in any state but DRAINED. -/
theorem DrainInv.ofReset {s : State} (hctx : s.ctx = .replicate 8 BayContext.reset)
    (htracker : s.tracker = SwathTracker.reset) (hpart : s.part ≠ .drained) : DrainInv s where
  admission := fun _ b => by rw [hctx, get_replicate]; rfl
  closed := fun _ => by rw [htracker]; decide
  saved := fun h => absurd h hpart
  failing := fun h => absurd h hpart
  absence := fun h => absurd h hpart

/-- Settles O59. -/
theorem invariantHoldsAtReset : Obligations.InvariantHoldsAtReset :=
  ⟨.ofReset rfl noticesReset_ok rfl rfl, .ofReset rfl rfl (by decide)⟩

end Sys2Proof.Machine
end

section
/-! SUPPORT. What leaves the bay contexts alone, and what lets no bay into admission. -/

namespace Sys2Proof.Machine

/-! ### Operations that leave the bay contexts alone -/

@[simp] theorem arbitrate_ctx (b : Bay) (s : State) : (arbitrate b s).ctx = s.ctx := by
  unfold arbitrate
  split <;> rfl

@[simp] theorem claimArrives_ctx (b : Bay) (c : Claim) (s : State) : (claimArrives b c s).1.ctx = s.ctx := by
  unfold claimArrives
  split
  · rfl
  · split
    · rw [arbitrate_ctx, modLine_ctx]
    · exact post_ctx ..

theorem writeOff_ctx (v : Nat) (b : Option Bay) (s : State) : (writeOff v b s).ctx = s.ctx := (writeOff_rest v b s).1

theorem addCarry_ctx (b : Bay) (v : Nat) (s : State) : (addCarry b v s).ctx = s.ctx := (addCarry_rest b v s).1

theorem addDebt_ctx (e : EntryIx) (v : Nat) (b : Option Bay) (s : State) : (addDebt e v b s).ctx = s.ctx :=
  (addDebt_rest e v b s).1

theorem fold_ctx (b : Bay) (s : State) : (fold b s).ctx = s.ctx := (fold_rest b s).1

theorem returnBatch_ctx (b : Bay) (e : EntryIx) (s : State) : (returnBatch b e s).ctx = s.ctx :=
  (returnBatch_rest b e s).1

theorem refold_ctx (b : Bay) (s : State) : (refold b s).ctx = s.ctx := by
  unfold refold
  split
  · exact fold_ctx b s
  · rfl

theorem starve_ctx (b : Bay) (v : Nat) (s : State) : (starve b v s).ctx = s.ctx := by
  unfold starve
  rw [post_ctx, modPool_ctx, addCarry_ctx]

theorem placeTally_ctx (b : Bay) (e : EntryIx) (w : BitVec 16) (v : Nat) (s : State) :
    (placeTally b e w v s).ctx = s.ctx := by
  unfold placeTally
  split
  · exact addDebt_ctx ..
  · split
    · unfold placeInPending
      split
      · rfl
      · exact starve_ctx b v s
    · split
      · exact addCarry_ctx ..
      · exact addDebt_ctx ..

theorem startStamps_ctx (b : Bay) : ∀ (l : List Verdict) (s : State), (startStamps b l s).ctx = s.ctx
  | [], s => rfl
  | k :: ks, s => by
    unfold startStamps
    dsimp only
    split
    · rw [startStamps_ctx b ks, post_ctx]
    · next slot _ =>
      generalize hc : claimArrives b _ (s.modMark b _) = r
      have hr : r.1.ctx = s.ctx := by rw [← hc, claimArrives_ctx, modMark_ctx]
      obtain ⟨t, o⟩ := r
      split
      · next h => cases h; exact hr
      · next h => cases h; exact hr
      · next h =>
        cases h
        rw [startStamps_ctx b ks, post_ctx]
        exact hr

theorem requestStamp_ctx (b : Bay) (k : Verdict) (s : State) : (requestStamp b k s).ctx = s.ctx := by
  unfold requestStamp
  dsimp only
  repeat' split
  case isFalse.isFalse.isFalse.isFalse.isTrue => exact startStamps_ctx b _ s
  all_goals rfl

theorem nextStamp_ctx (b : Bay) (s : State) : (nextStamp b s).ctx = s.ctx := by
  unfold nextStamp
  split
  · exact startStamps_ctx b _ s
  · rfl

theorem respond_ctx (st : LinkStatus) (d : List Byte) (s : State) : (respond st d s).ctx = s.ctx := by
  unfold respond
  split
  · split <;> rfl
  · rfl

theorem reportRefused_ctx (r : LinkRequest) (s : State) : (reportRefused r s).ctx = s.ctx := by
  unfold reportRefused
  split
  · exact post_ctx ..
  · rfl

theorem answerNow_ctx (r : LinkRequest) (st : LinkStatus) (s : State) : (answerNow r st s).ctx = s.ctx := by
  unfold answerNow
  dsimp only
  rw [respond_ctx, modLink_ctx]
  split
  · exact reportRefused_ctx r s
  · rfl

theorem makeLinkClaim_ctx (r : LinkRequest) (s : State) : (makeLinkClaim r s).ctx = s.ctx := by
  have hc := claimArrives_ctx (supplyBay r.addr) r.claim s
  unfold makeLinkClaim
  split
  · next h => rw [h] at hc; exact hc
  · next h => rw [h] at hc; exact (respond_ctx ..).trans hc

theorem passThrough_ctx (r : LinkRequest) (s : State) : (passThrough r s).ctx = s.ctx := by
  unfold passThrough
  split
  · rfl
  · exact makeLinkClaim_ctx r s

theorem orphanEnds_ctx (b : Bay) (s : State) : (orphanEnds b s).ctx = s.ctx := by
  unfold orphanEnds
  dsimp only
  split
  · rfl
  · split
    · rw [answerNow_ctx]; rfl
    · rw [makeLinkClaim_ctx]; rfl

theorem arbServe_ctx (s : State) : (arbServe s).ctx = s.ctx := by
  unfold arbServe serveFire serveLink
  repeat' split
  all_goals rfl

theorem linkDeparture_ctx (b : Bay) (s : State) : (linkDeparture b s).ctx = s.ctx := by
  unfold linkDeparture
  rw [modLink_ctx]
  split
  · exact respond_ctx ..
  · rfl

theorem abandonCommit_ctx (b : Bay) (x : Bool) (s : State) : (abandonCommit b x s).1.ctx = s.ctx := by
  unfold abandonCommit
  split
  · rfl
  · split
    · rfl
    · split
      · rfl
      · exact returnBatch_ctx ..

theorem leaveBay_ctx (o : Option EntryIx) (s : State) : (leaveBay o s).ctx = s.ctx := by
  unfold leaveBay
  split <;> rfl

theorem writerTurn_ctx (a : Bool) (s : State) : (writerTurn a s).ctx = s.ctx := by
  unfold writerTurn
  split
  · split <;> rfl
  · rfl

theorem writeReported_ctx (ok : Bool) (w : Snapshot) (s : State) : (writeReported ok w s).ctx = s.ctx := by
  unfold writeReported
  dsimp only
  split <;> split
  · rfl
  · exact post_ctx ..
  · rfl
  · exact post_ctx ..

/-! ### No bay enters admission -/

/-- A bay that is in admission in `t` was in admission in `s`. -/
structure Calm (s t : State) : Prop where
  before : ∀ b : Bay, t.ctx[b].state.inAdmission = true → s.ctx[b].state.inAdmission = true

namespace Calm
variable {s t u : State}

theorem of_ctx (h : t.ctx = s.ctx) : Calm s t := ⟨fun b hb => by rwa [h] at hb⟩

theorem refl (s : State) : Calm s s := ⟨fun _ => id⟩

theorem trans (h : Calm s t) (k : Calm t u) : Calm s u := ⟨fun b hb => h.before b (k.before b hb)⟩

/-- A calm operation after one that leaves the contexts alone. -/
theorem after (k : Calm t u) (h : t.ctx = s.ctx) : Calm s u := (of_ctx h).trans k

/-- A calm operation before one that leaves the contexts alone. -/
theorem before_ctx (h : Calm s t) (k : u.ctx = t.ctx) : Calm s u := h.trans (of_ctx k)

theorem none_admitted (h : Calm s t) (hs : ∀ b : Bay, s.ctx[b].state.inAdmission = false) (b : Bay) :
    t.ctx[b].state.inAdmission = false := by
  cases hb : t.ctx[b].state.inAdmission with
  | false => rfl
  | true => rw [← h.before b hb, hs b]

/-- An update of one bay's context that keeps the bay out of admission. -/
theorem modCtx {b : Bay} {f : BayContext → BayContext}
    (h : (f s.ctx[b]).state.inAdmission = true → s.ctx[b].state.inAdmission = true) : Calm s (s.modCtx b f) := by
  refine ⟨fun d hd => ?_⟩
  rw [modCtx_ctx] at hd
  by_cases hdb : d = b
  · subst hdb
    rw [upd_self] at hd
    exact h hd
  · rwa [upd_ne _ _ _ _ hdb] at hd

/-- Bay after bay. -/
theorem forBays {f : Bay → State → State} (h : ∀ b t, Calm t (f b t)) : Calm s (forBays f s) := by
  have hfold : ∀ (l : List Bay) (s : State), Calm s (l.foldl (fun t b => f b t) s) := by
    intro l
    induction l with
    | nil => exact refl
    | cons b l ih => exact fun s => (h b s).trans (ih _)
  exact hfold allBays s

end Calm

theorem bayState_not_inAdmission (a : Action) : a.bayState.inAdmission = false := by cases a <;> rfl

theorem calm_changeAction (b : Bay) (a : Action) (s : State) : Calm s (changeAction b a s) := by
  refine Calm.modCtx fun h => ?_
  split at h
  · rw [bayState_not_inAdmission] at h; cases h
  · split at h
    · exact h
    · exact h

theorem calm_stickyFault (b : Bay) (f : StickyFault) (s : State) : Calm s (stickyFault b f s) := by
  refine Calm.modCtx fun h => ?_
  split at h
  · cases h
  · exact h

theorem calm_drawAllowance (b : Bay) (e : EntryIx) (v : Nat) (s : State) : Calm s (drawAllowance b e v s) := by
  unfold drawAllowance
  dsimp only
  split
  · exact .refl s
  · split
    · refine Calm.trans ?_ (.of_ctx (post_ctx ..))
      split
      · exact (calm_changeAction _ _ _).after rfl
      · exact .of_ctx rfl
    · exact .of_ctx rfl

/-- What OVERDRAWN makes of the entry, the bay and the notices, before the stamp it asks for (R132). -/
def escalated (b : Bay) (e : EntryIx) (s : State) : State :=
  let p := s.profile.policy
  let v := s.registry.entries[e].saved
  let a := p.action .overdrawn
  let n := p.allowance .overdrawn
  let worst := strongerWorst p v.worst .overdrawn
  let up := escalates v.held v.allowance a n
  let allowance := if a = .limit then (if v.held = .limit then min v.allowance n else n) else v.allowance
  if worst = v.worst ∧ up = false then s
  else
    let v' := { v with worst := worst, held := if up then a else v.held,
                       allowance := if up then allowance else v.allowance }
    let t := s.modEntry e fun x => { x with saved := v', dirty := true }
    let t := if up then changeAction b a t else t
    post .refillVerdict (some b) (toLE 1 Verdict.overdrawn.code ++ toLE 1 v'.held.code ++ toLE 3 (allowanceLU v')) t

theorem escalate_eq (b : Bay) (e : EntryIx) (s : State) : escalate b e s =
    if s.profile.policy.marks .overdrawn then requestStamp b .overdrawn (escalated b e s) else escalated b e s := rfl

theorem calm_escalated (b : Bay) (e : EntryIx) (s : State) : Calm s (escalated b e s) := by
  unfold escalated
  dsimp only
  split
  · exact .refl s
  · refine Calm.trans ?_ (.of_ctx (post_ctx ..))
    split
    · exact (calm_changeAction _ _ _).after rfl
    · exact .of_ctx rfl

theorem calm_escalate (b : Bay) (e : EntryIx) (s : State) : Calm s (escalate b e s) := by
  rw [escalate_eq]
  split
  · exact (calm_escalated b e s).trans (.of_ctx (requestStamp_ctx ..))
  · exact calm_escalated b e s

/-! ### Commits -/

theorem calm_commitStart (b : Bay) (e : EntryIx) (s : State) : Calm s (commitStart b e s) := by
  unfold commitStart
  dsimp only
  have hform : Calm s (formBatch b e s) := .of_ctx rfl
  refine hform.trans ?_
  split
  · exact .of_ctx rfl
  · split
    · exact (Calm.of_ctx (returnBatch_ctx ..)).trans ((calm_stickyFault ..).trans (.of_ctx (post_ctx ..)))
    · exact .of_ctx rfl

theorem calm_judge (b : Bay) (s : State) : Calm s (judge b s) := by
  unfold judge
  split
  · exact calm_commitStart ..
  · exact .refl s

theorem levelNotices_ctx (b : Bay) (s : State) : (levelNotices b s).ctx = s.ctx := by
  have hlow : ∀ (c : Prop) [Decidable c] (d : List Byte) (f : CommitContext → CommitContext),
      (if c then post .levelLow (some b) d (s.modCommit b f) else s).ctx = s.ctx := by
    intro c _ d f
    split
    · rw [post_ctx, modCommit_ctx]
    · rfl
  unfold levelNotices
  dsimp only
  split
  · rw [post_ctx, hlow]
  · exact hlow _ _ _

theorem calm_overdrawTest (b : Bay) (e : EntryIx) (s : State) : Calm s (overdrawTest b e s) := by
  unfold overdrawTest
  split
  · exact calm_escalate b e s
  · exact .refl s

theorem calm_chargeTag (b : Bay) (e : EntryIx) (s : State) : Calm s (chargeTag b e s) :=
  (Calm.modCtx (b := b) (f := fun x => { x with level := s.commits[b].pageData }) id).trans (.of_ctx rfl)

theorem calm_commitSuccess (b : Bay) (e : EntryIx) (s : State) : Calm s (commitSuccess b e s) := by
  unfold commitSuccess
  dsimp only
  generalize hs1 : (chargeTag b e s).modEntry e _ = s1
  have h1 : Calm s s1 := (calm_chargeTag b e s).trans (.of_ctx (by rw [← hs1, modEntry_ctx]))
  have h2 : Calm s (overdrawTest b e (levelNotices b s1)) :=
    (h1.trans (.of_ctx (levelNotices_ctx b s1))).trans (calm_overdrawTest b e _)
  refine (h2.trans (.of_ctx ?_)).trans (calm_judge b _)
  rw [modCommit_ctx, post_ctx]

theorem calm_commitFailure (b : Bay) (e : EntryIx) (r : FaultReason) (s : State) : Calm s (commitFailure b e r s) :=
  (Calm.of_ctx (returnBatch_ctx b e s)).trans ((calm_stickyFault b _ _).trans
    ((Calm.of_ctx (post_ctx ..)).trans (.of_ctx (refold_ctx b _))))

theorem commitWithdrawn_ctx (b : Bay) (e : EntryIx) (s : State) : (commitWithdrawn b e s).ctx = s.ctx :=
  (refold_ctx b _).trans (returnBatch_ctx b e s)

theorem calm_commitOutcome (b : Bay) (o : LineOutcome) (s : State) : Calm s (commitOutcome b o s) := by
  unfold commitOutcome
  split
  · exact .refl s
  · cases o with
    | success d => exact calm_commitSuccess ..
    | denied => exact calm_commitFailure ..
    | programFailed => exact calm_commitFailure ..
    | silent => exact calm_commitFailure ..
    | garbled => exact calm_commitFailure ..
    | abandoned x => exact .refl s
    | withdrawn => exact .of_ctx (commitWithdrawn_ctx ..)

theorem calm_checkCodeArrives (b : Bay) (code : List Byte) (s : State) : Calm s (checkCodeArrives b code s) := by
  unfold checkCodeArrives
  dsimp only
  split
  · next e _ _ =>
    split
    · generalize hr : claimArrives b _ (s.modCommit b _) = r
      have hctx : r.1.ctx = s.ctx := by rw [← hr, claimArrives_ctx, modCommit_ctx]
      obtain ⟨t, o⟩ := r
      cases o with
      | none => exact .of_ctx hctx
      | some o => exact (Calm.of_ctx hctx).trans (calm_commitOutcome b o t)
    · exact .of_ctx (commitWithdrawn_ctx ..)
  · exact .refl s

theorem calm_flushElapsed (b : Bay) (s : State) : Calm s (flushElapsed b s) := by
  unfold flushElapsed
  split
  · exact (calm_judge b _).after rfl
  · exact .refl s

/-! ### Marks, the link port's answers, handovers -/

theorem calm_markOutcome (b : Bay) (c : Claim) (o : LineOutcome) (s : State) : Calm s (markOutcome b c o s) := by
  unfold markOutcome
  split
  · exact Calm.trans (Calm.modCtx (b := b) id) (Calm.trans (.of_ctx (post_ctx ..)) (.of_ctx (nextStamp_ctx ..)))
  · exact .of_ctx rfl
  · exact .of_ctx rfl
  · exact Calm.trans (.of_ctx (post_ctx ..)) (.of_ctx (nextStamp_ctx ..))
  · exact .refl s

theorem calm_linkOutcome (b : Bay) (c : Claim) (o : LineOutcome) (s : State) : Calm s (linkOutcome b c o s) := by
  have hlock : Calm s (updateLock b c o s) := by
    unfold updateLock
    split
    · split
      · exact Calm.modCtx id
      · exact .refl s
    · exact .refl s
  unfold linkOutcome
  refine hlock.trans ?_
  dsimp only
  split
  · exact .of_ctx (orphanEnds_ctx ..)
  · exact .of_ctx (respond_ctx ..)

theorem calm_handover (b : Bay) (s : State) : Calm s (handover b s) := by
  have hplaced (e : EntryIx) (v : Nat) : (if v = 0 then s else placeTally b e s.tracker.number v s).ctx = s.ctx := by
    split
    · rfl
    · exact placeTally_ctx ..
  unfold handover
  split
  · next e _ _ =>
    dsimp only
    have hjudged := (Calm.of_ctx (hplaced e s.meter.tally[b])).trans
      ((calm_drawAllowance b e s.meter.tally[b] _).trans (calm_judge b _))
    split
    · exact hjudged.trans (calm_judge _ _)
    · exact hjudged
  · exact .refl s

theorem calm_swathEnd (s : State) : Calm s (swathEnd s) := by
  have hhand : Calm s (forBays handover { s with tracker := { s.tracker with limit := .stopped } }) :=
    (Calm.forBays calm_handover).after rfl
  rw [swathEnd_eq]
  dsimp only
  generalize forBays handover { s with tracker := { s.tracker with limit := .stopped } } = h at hhand ⊢
  refine (hhand.before_ctx ?_).trans (Calm.forBays calm_judge)
  rfl

theorem calm_swathForcedEnd (s : State) : Calm s (swathForcedEnd s) := by
  unfold swathForcedEnd swathEndTo
  split
  · have hend := calm_swathEnd s
    dsimp only
    generalize swathEnd s = t at hend ⊢
    exact hend.before_ctx rfl
  · exact .refl s

/-! ### Admission -/

theorem resolveDoubt_ctx (b : Bay) (e : EntryIx) (l u : Nat) (s : State) : (resolveDoubt b e l u s).1.ctx = s.ctx := by
  unfold resolveDoubt
  dsimp only
  split
  · rfl
  · split
    · rw [modEntry_ctx, addDebt_ctx]
    · rfl

/-- The context a judged cartridge leaves (R33): its bay owned, settled by the action, with nothing held or awaited. -/
theorem judgeCartridge_ctx (b : Bay) (e : EntryIx) (found good : Bool) (id level marks : List Byte) (s : State) :
    let j := judgeCartridge b e found good id level marks s
    let a := j.1.registry.entries[e].saved.held
    j.1.ctx = upd s.ctx b fun c => { c.dropHeld with owner := some e, action := some a, state := a.bayState } := by
  unfold judgeCartridge
  dsimp only
  rw [modCtx_ctx, modEntry_ctx, resolveDoubt_ctx, modCtx_ctx, upd_upd]
  rfl

theorem bindEntry_ctx (b : Bay) (e : EntryIx) (s : State) : (bindEntry b e s).ctx = s.ctx := by
  unfold bindEntry
  dsimp only
  rw [modHeader_ctx, modEntry_ctx, addCarry_ctx, modEntry_ctx]

theorem stamps_ctx (b : Bay) : ∀ (l : List Verdict) (s : State), (l.foldl (fun t k => requestStamp b k t) s).ctx = s.ctx
  | [], _ => rfl
  | k :: l, s => (stamps_ctx b l _).trans (requestStamp_ctx b k s)

theorem calm_completeAdmission (b : Bay) (e : EntryIx) (found good : Bool) (id level marks : List Byte) (s : State) :
    Calm s (completeAdmission b e found good id level marks s) := by
  have hjudged : Calm s (judgeCartridge b e found good id level marks s).1 := by
    refine ⟨fun d hd => ?_⟩
    rw [judgeCartridge_ctx] at hd
    by_cases hdb : d = b
    · subst hdb
      rw [upd_self, bayState_not_inAdmission] at hd
      cases hd
    · rwa [upd_ne _ _ _ _ hdb] at hd
  unfold completeAdmission
  dsimp only
  refine (hjudged.trans (.of_ctx ?_)).trans (calm_judge b _)
  rw [stamps_ctx, post_ctx, bindEntry_ctx]

/-- The completion of checking settles the bay, or leaves the contexts as they are. -/
theorem calm_checkingComplete (b : Bay) (s : State) : Calm s (checkingComplete b s) := by
  unfold checkingComplete
  split
  · next id level marks good _ _ _ _ =>
    generalize hl : lookup b _ s = r
    have hctx : r.1.ctx = s.ctx := by rw [← hl]; exact (lookup_rest ..).1
    obtain ⟨t, a⟩ := r
    cases a with
    | found e => exact (Calm.of_ctx hctx).trans (calm_completeAdmission ..)
    | created e => exact (Calm.of_ctx hctx).trans (calm_completeAdmission ..)
    | held => exact .of_ctx ((post_ctx ..).trans hctx)
    | noEntry => exact .of_ctx hctx
  · exact .refl s

theorem calm_answerHeld (x : BitVec 64) (s : State) : Calm s (answerHeld x s) := by
  unfold answerHeld
  split
  · exact (calm_checkingComplete _ _).after rfl
  · exact .refl s

/-- An outcome for a bay that is not in admission finds nothing to do. -/
theorem admissionOutcome_of_not_inAdmission {b : Bay} {s : State} (c : Claim) (o : LineOutcome)
    (h : s.ctx[b].state.inAdmission = false) : admissionOutcome b c o s = s := by
  unfold admissionOutcome
  cases hs : s.ctx[b].state <;> first | rfl | (rw [hs] at h; cases h)

/-- A proof-engine result for a bay that is not in admission is discarded. -/
theorem admissionResult_of_not_inAdmission {b : Bay} {s : State} (i : ProofInputs) (x : List Byte)
    (h : s.ctx[b].state.inAdmission = false) : admissionResult b i x s = s := by
  unfold admissionResult
  split
  · cases hs : s.ctx[b].state <;> first | rfl | (rw [hs] at h; cases h)
  · rfl

theorem settleExpires_of_not_inAdmission {b : Bay} {s : State} (h : s.ctx[b].state.inAdmission = false) :
    settleExpires b s = s := by
  unfold settleExpires
  cases hs : s.ctx[b].state <;> first | rfl | (rw [hs] at h; cases h)

/-- The rise of a presence line outside READY starts no admission. -/
theorem calm_presenceRises {b : Bay} {s : State} (h : s.part ≠ .ready) : Calm s (presenceRises b s) := by
  by_cases hempty : s.ctx[b].state = .empty
  · rw [presenceRises_of_empty_not_ready hempty h]
    exact .refl s
  · by_cases hidle : ¬(s.part = .ready ∨ s.part = .drain) ∨ s.ctx[b].absence = .stopped
    · rw [presenceRises_of_seated_idle hempty hidle]
      exact .refl s
    · rw [not_or, not_not] at hidle
      rw [presenceRises_of_seated_absent hempty hidle.1 hidle.2]
      split
      · exact Calm.modCtx id
      · exact Calm.modCtx id

theorem calm_presenceDrops (b : Bay) (s : State) : Calm s (presenceDrops b s) := by
  unfold presenceDrops
  split
  · exact .refl s
  · exact Calm.modCtx id

/-! ### Departures and transactions -/

theorem calm_releaseBay (b : Bay) (s : State) : Calm s (releaseBay b s) := by
  unfold releaseBay emptyContext
  dsimp only
  exact (Calm.modCtx fun h => by cases h).after rfl

theorem calm_departure (b : Bay) (s : State) : Calm s (departure b s) := by
  unfold departure
  dsimp only
  have hleft : ∀ (o : Option EntryIx) (d : List Byte),
      Calm s (releaseBay b (post .bayDeparted (some b) d (leaveBay o (fold b (abandonCommit b
        s.lines[b].commitStoreSent (linkDeparture b s)).1)))) := by
    intro o d
    refine Calm.trans (.of_ctx ?_) (calm_releaseBay b _)
    rw [post_ctx, leaveBay_ctx, fold_ctx, abandonCommit_ctx, linkDeparture_ctx]
  split
  · exact (hleft _ _).trans (calm_answerHeld _ _)
  · exact hleft _ _

theorem calm_absenceExpires (b : Bay) (s : State) : Calm s (absenceExpires b s) := by
  unfold absenceExpires
  split
  · split
    · exact .refl s
    · exact calm_departure b s
  · exact .refl s

theorem reportOutcome_ctx (b : Bay) (w : Claimant) (o : LineOutcome) (s : State) : (reportOutcome b w o s).ctx = s.ctx := by
  unfold reportOutcome
  split
  · exact post_ctx ..
  · rfl

section
variable {s : State} (hs : ∀ b : Bay, s.ctx[b].state.inAdmission = false)
include hs

theorem calm_endTransaction (b : Bay) (c : Claim) (o : LineOutcome) : Calm s (endTransaction b c o s) := by
  have hhand : ∀ u : State, u.ctx = s.ctx → Calm u (handOutcome b c o u) := by
    intro u hu
    unfold handOutcome
    split
    · rw [admissionOutcome_of_not_inAdmission c o (by rw [hu]; exact hs b)]
      exact .refl u
    · exact calm_commitOutcome b o u
    · exact calm_markOutcome b c o u
    · exact calm_linkOutcome b c o u
  have hctx := (reportOutcome_ctx b c.claimant o (s.modLine b LineUnit.clear)).trans (modLine_ctx ..)
  unfold endTransaction
  dsimp only
  refine ((Calm.of_ctx hctx).trans (hhand _ hctx)).trans (.of_ctx ?_)
  rw [arbitrate_ctx, modLine_ctx]

theorem calm_requestFailed (b : Bay) (t : Transaction) (o : LineOutcome) : Calm s (requestFailed b t o s) := by
  unfold requestFailed
  split
  · split
    · exact calm_endTransaction hs b _ _
    · exact .of_ctx rfl
  · exact calm_endTransaction hs b _ _

theorem calm_firstReply (b : Bay) (t : Transaction) (r : ReplyClass) : Calm s (firstReply b t r s) := by
  cases r with
  | accept d =>
    simp only [firstReply]
    split
    · exact calm_endTransaction hs b _ _
    · exact .of_ctx rfl
  | wait => exact .of_ctx rfl
  | denied => exact calm_endTransaction hs b _ _
  | garbled => exact calm_requestFailed hs b _ _

theorem calm_pollReply (b : Bay) (t : Transaction) (r : ReplyClass) : Calm s (pollReply b t r s) := by
  cases r with
  | accept d =>
    simp only [pollReply]
    split
    · exact calm_endTransaction hs b _ _
    · exact calm_endTransaction hs b _ _
  | wait =>
    simp only [pollReply]
    split
    · exact calm_endTransaction hs b _ _
    · exact .of_ctx rfl
  | denied => exact calm_endTransaction hs b _ _
  | garbled => exact calm_requestFailed hs b _ _

theorem calm_replyArrives (b : Bay) (a : TagAnswer) : Calm s (replyArrives b a s) := by
  have hheard : ∀ d : Bay, (lineHeard b s).ctx[d].state.inAdmission = false := hs
  refine Calm.trans (t := lineHeard b s) (.of_ctx rfl) ?_
  unfold replyArrives
  dsimp only
  split
  · split
    · exact calm_firstReply hheard b _ _
    · exact calm_pollReply hheard b _ _
  · exact .refl _

theorem calm_replyMissing (b : Bay) (begun : Bool) : Calm s (replyMissing b begun s) := by
  unfold replyMissing
  dsimp only
  split
  · cases begun with
    | true =>
      have hheard : ∀ d : Bay, (lineHeard b s).ctx[d].state.inAdmission = false := hs
      exact (calm_requestFailed hheard b _ _).after rfl
    | false => exact calm_requestFailed hs b _ _
  · exact .refl s

theorem calm_limitExpires (b : Bay) : Calm s (limitExpires b s) := by
  unfold limitExpires
  split
  · split
    · exact calm_endTransaction hs b _ _
    · exact .of_ctx rfl
  · exact .refl s

theorem calm_serviceEnds : Calm s (serviceEnds s) := by
  unfold serviceEnds
  split
  · exact .refl s
  · next r _ =>
    dsimp only
    have hctx : (proofComputed r.inputs s).ctx = s.ctx := by unfold proofComputed; split <;> rfl
    refine Calm.trans (t := deliver r (proofResult s r.inputs) (proofComputed r.inputs s)) ?_ (.of_ctx rfl)
    refine (Calm.of_ctx hctx).trans ?_
    unfold deliver
    split
    · exact .refl _
    · split
      · rw [admissionResult_of_not_inAdmission _ _ (by rw [hctx]; exact hs _)]
        exact .refl _
      · exact calm_checkCodeArrives ..

end

end Sys2Proof.Machine
end

section
/-! SUPPORT. DRAINED: how a step enters it, what a part that is not READY cannot start, and what it does while DRAINED. -/

namespace Sys2Proof.Machine

/-! ### The close of an act -/

theorem mem_allBays (b : Bay) : b ∈ allBays := by
  fin_cases b <;> decide

theorem mem_allEntries (e : EntryIx) : e ∈ allEntries := List.mem_finRange e

theorem drainDone_iff (s : State) : drainDone s = true ↔ s.part = .drain ∧ s.saved := by
  unfold drainDone State.saved
  simp only [Bool.and_eq_true, beq_iff_eq, List.all_eq_true, Bool.not_eq_true', Option.isNone_iff_eq_none,
    mem_allBays, mem_allEntries, forall_true_left, forall_and, and_assoc]

theorem finish_of_not_done {s : State} (h : ¬((writerTurn false s).part = .drain ∧ (writerTurn false s).saved)) :
    finish s = writerTurn false s := by
  unfold finish
  dsimp only
  rw [if_neg (by rwa [drainDone_iff])]

theorem finish_of_done {s : State} (hpart : (writerTurn false s).part = .drain) (hsaved : (writerTurn false s).saved) :
    finish s = enterDrained (writerTurn false s) := by
  unfold finish
  dsimp only
  rw [if_pos (by rw [drainDone_iff]; exact ⟨hpart, hsaved⟩)]

theorem writerTurn_part (a : Bool) (s : State) : (writerTurn a s).part = s.part := (keeps_writerTurn s a).part

theorem finish_of_not_drain {s : State} (h : s.part ≠ .drain) : finish s = writerTurn false s :=
  finish_of_not_done fun hdone => h (by rw [← writerTurn_part false s]; exact hdone.1)

/-- Outside READY and DRAIN the close of an act does nothing. -/
theorem finish_of_drained {s : State} (h : s.part = .drained) : finish s = s := by
  rw [finish_of_not_drain (by rw [h]; decide), writerTurn, if_neg (by simp [h, PartState.writes])]

/-- The state that the entry to DRAINED leaves while SUPPLY_FAIL stays asserted. -/
theorem enterDrained_failing {s : State} (h : s.pins.supplyFail = true) : enterDrained s = post .drained none []
    { s with part := .drained, ctx := updAll s.ctx fun _ c => { c with absence := .stopped } } := by
  unfold enterDrained
  dsimp only
  rw [if_pos h]

theorem enterDrained_returned {s : State} (h : s.pins.supplyFail = false) : enterDrained s = restart (post .drained none []
    { s with part := .drained, ctx := updAll s.ctx fun _ c => { c with absence := .stopped } }) := by
  unfold enterDrained
  dsimp only
  rw [if_neg (by simp [h])]

/-- A posting leaves what R174 looks at. -/
theorem saved_post {k : NoticeKind} {b : Option Bay} {d : List Byte} {s : State} : (post k b d s).saved ↔ s.saved := by
  unfold State.saved
  rw [post_commits, post_lines, post_registry]

theorem finish_enters_drained {s : State} (hs : s.part ≠ .drained) (ht : (finish s).part = .drained) :
    (finish s).saved ∧ (finish s).pins.supplyFail = true := by
  by_cases hdone : (writerTurn false s).part = .drain ∧ (writerTurn false s).saved
  · rw [finish_of_done hdone.1 hdone.2] at ht ⊢
    cases hfail : (writerTurn false s).pins.supplyFail with
    | true =>
      rw [enterDrained_failing hfail, saved_post, post_pins]
      exact ⟨hdone.2, hfail⟩
    | false =>
      rw [enterDrained_returned hfail] at ht
      cases ht
  · rw [finish_of_not_done hdone, writerTurn_part] at ht
    exact absurd ht hs

/-! ### The part state through the acts -/

theorem swathStart_part (s : State) : (swathStart s).part = s.part := by
  rw [swathStart_eq]
  exact (keeps_forBays _ judge fun b t => keeps_judge t b).part

theorem swathEndTo_part (next : TrackerState) (s : State) : (swathEndTo next s).part = s.part := by
  unfold swathEndTo
  dsimp only
  exact swathEnd_part s

theorem swathForcedEnd_part (s : State) : (swathForcedEnd s).part = s.part := by
  unfold swathForcedEnd
  split
  · exact swathEndTo_part _ s
  · rfl

theorem swathRises_part (s : State) : (swathRises s).part = s.part := by
  unfold swathRises
  split
  · exact swathStart_part s
  · rfl

theorem swathFalls_part (s : State) : (swathFalls s).part = s.part := by
  unfold swathFalls
  split
  · exact swathEndTo_part _ s
  · rfl
  · rfl

theorem swathSplit_part (s : State) : (swathSplit s).part = s.part := by
  unfold swathSplit
  split
  · rw [post_part, swathStart_part, swathEnd_part]
  · rfl

/-- Of the commits, the lines, the contexts, the registry, the part state, the pins and the tracker a state keeps all.
What the fire port, the swath memory and the carriage link do is of this kind. -/
structure Aside (s t : State) : Prop where
  powered : t.powered = s.powered
  pins : t.pins = s.pins
  part : t.part = s.part
  ctx : t.ctx = s.ctx
  tracker : t.tracker = s.tracker
  registry : t.registry = s.registry
  commits : ∀ b : Bay, t.commits[b].state = s.commits[b].state
  lines : ∀ b : Bay, t.lines[b].state = s.lines[b].state

namespace Aside
variable {s t u : State}

theorem refl (s : State) : Aside s s := ⟨rfl, rfl, rfl, rfl, rfl, rfl, fun _ => rfl, fun _ => rfl⟩

theorem trans (h : Aside s t) (k : Aside t u) : Aside s u :=
  ⟨k.powered.trans h.powered, k.pins.trans h.pins, k.part.trans h.part, k.ctx.trans h.ctx, k.tracker.trans h.tracker,
    k.registry.trans h.registry, fun b => (k.commits b).trans (h.commits b), fun b => (k.lines b).trans (h.lines b)⟩

theorem of_onlyNotices (h : OnlyNotices s t) : Aside s t :=
  ⟨h.powered, h.pins, h.part, h.ctx, h.tracker, h.registry, fun b => by rw [h.commits], fun b => by rw [h.lines]⟩

theorem post (k : NoticeKind) (b : Option Bay) (d : List Byte) (s : State) : Aside s (post k b d s) :=
  of_onlyNotices (onlyNotices_post k b d s)

/-- An operation after one that keeps all this. -/
theorem after (k : Aside t u) (h : Aside s t) : Aside s u := h.trans k

theorem modLink (f : LinkPort → LinkPort) (s : State) : Aside s (s.modLink f) :=
  ⟨rfl, rfl, rfl, rfl, rfl, rfl, fun _ => rfl, fun _ => rfl⟩

theorem setMeter (m : DropMeter) (s : State) : Aside s { s with meter := m } :=
  ⟨rfl, rfl, rfl, rfl, rfl, rfl, fun _ => rfl, fun _ => rfl⟩

theorem setFire (f : FirePort) (s : State) : Aside s { s with fire := f } :=
  ⟨rfl, rfl, rfl, rfl, rfl, rfl, fun _ => rfl, fun _ => rfl⟩

theorem setPort (p : MemoryPort) (s : State) : Aside s { s with port := p } :=
  ⟨rfl, rfl, rfl, rfl, rfl, rfl, fun _ => rfl, fun _ => rfl⟩

theorem setSram (m : Memory) (s : State) : Aside s { s with sram := m } :=
  ⟨rfl, rfl, rfl, rfl, rfl, rfl, fun _ => rfl, fun _ => rfl⟩

theorem setProof (p : ProofEngine) (s : State) : Aside s { s with proof := p } :=
  ⟨rfl, rfl, rfl, rfl, rfl, rfl, fun _ => rfl, fun _ => rfl⟩

theorem modLine {b : Bay} {f : LineUnit → LineUnit} (h : (f s.lines[b]).state = s.lines[b].state) :
    Aside s (s.modLine b f) := by
  refine ⟨rfl, rfl, rfl, rfl, rfl, rfl, fun _ => rfl, fun d => ?_⟩
  rw [modLine_lines]
  by_cases hdb : d = b
  · subst hdb
    rw [upd_self, h]
  · rw [upd_ne _ _ _ _ hdb]

theorem modCommit {b : Bay} {f : CommitContext → CommitContext} (h : (f s.commits[b]).state = s.commits[b].state) :
    Aside s (s.modCommit b f) := by
  refine ⟨rfl, rfl, rfl, rfl, rfl, rfl, fun d => ?_, fun _ => rfl⟩
  rw [modCommit_commits]
  by_cases hdb : d = b
  · subst hdb
    rw [upd_self, h]
  · rw [upd_ne _ _ _ _ hdb]

theorem arbServe (s : State) : Aside s (arbServe s) := by
  unfold Machine.arbServe serveFire serveLink
  repeat' split
  all_goals exact ⟨rfl, rfl, rfl, rfl, rfl, rfl, fun _ => rfl, fun _ => rfl⟩

theorem portFree (s : State) : Aside s (portFree s) := (arbServe _).after (setPort _ s)

theorem respond (st : LinkStatus) (d : List Byte) (s : State) : Aside s (respond st d s) := by
  unfold Machine.respond
  split
  · split
    · exact modLink _ s
    · exact refl s
  · exact refl s

theorem answerNow (r : LinkRequest) (st : LinkStatus) (s : State) : Aside s (answerNow r st s) := by
  have hreport : Aside s (if st = .refused then reportRefused r s else s) := by
    unfold reportRefused
    split
    · split
      · exact post ..
      · exact refl s
    · exact refl s
  exact (hreport.trans (modLink _ _)).trans (respond ..)

end Aside

theorem aside_meterByte (a : Addr24) (v : Byte) (s : State) : Aside s (meterByte a v s).1 := by
  have counted (b : Bay) : Aside s (countByte b v s).1 := by
    unfold countByte
    dsimp only
    split
    · exact .setMeter _ s
    · exact (Aside.post ..).after (.setMeter _ s)
  have planed (b : Bay) : Aside s (meterPlane b a v s).1 := by
    unfold meterPlane
    split
    · split
      · exact counted b
      · exact .refl s
    · exact .post ..
    · exact .post ..
  unfold meterByte
  split
  case h_4 =>
    split
    · exact planed _
    · exact .refl s
  all_goals exact .refl s

theorem aside_fireByteRead (s : State) : Aside s (fireByteRead s) := by
  unfold fireByteRead
  split
  · exact .refl s
  · next f _ =>
    have hm := aside_meterByte f.next (Memory.read s.sram f.next.toNat) s
    dsimp only
    generalize meterByte f.next (Memory.read s.sram f.next.toNat) s = r at hm ⊢
    have hfire (x : FirePort) : Aside s { r.1 with fire := x } := hm.trans (.setFire x r.1)
    split
    · exact (hfire _).trans (.portFree _)
    · exact hfire _

theorem aside_burstOffered (start : Addr24) (len : Nat) (s : State) : Aside s (burstOffered start len s) := by
  unfold burstOffered
  split
  · exact (Aside.arbServe _).after (.setFire _ s)
  · exact .refl s

theorem aside_linkBurstCompletes (s : State) : Aside s (linkBurstCompletes s) := by
  have stored (w : Bool) (m : Memory) : Aside s (if w then { s with sram := m } else s) := by
    split
    · exact .setSram m s
    · exact .refl s
  unfold linkBurstCompletes
  split
  · exact .refl s
  · dsimp only
    split
    · exact (stored _ _).trans (.portFree _)
    · exact ((stored _ _).trans (.respond ..)).trans (.portFree _)

/-- Outside READY a request is routed past the tag lines (R146). -/
theorem aside_routeRequest {s : State} (r : LinkRequest) (h : s.part ≠ .ready) : Aside s (routeRequest r s) := by
  have hroute : routeOf s r = .swath ∨ routeOf s r = .immediate .notReady := by
    unfold routeOf
    split
    · exact .inl rfl
    · rw [if_pos h]; exact .inr rfl
  unfold routeRequest
  obtain hr | hr := hroute
  · rw [hr]
    exact (Aside.arbServe _).after (.setPort _ s)
  · rw [hr]
    exact .answerNow ..

theorem aside_frameByte {s : State} (v : Byte) (h : s.part ≠ .ready) : Aside s (frameByte v s) := by
  unfold frameByte
  dsimp only
  split
  · exact .modLink _ s
  · split
    · exact .modLink _ s
    · split
      · split
        · exact (Aside.modLink _ s).trans (aside_routeRequest _ h)
        · exact .modLink _ s
      · exact .modLink _ s

theorem aside_linkByteArrives {s : State} (v : Byte) (h : s.part ≠ .ready) : Aside s (linkByteArrives v s) := by
  have overrun : Aside s (overrunByte s) := by
    unfold overrunByte
    dsimp only
    split
    · exact .modLink _ s
    · exact (Aside.modLink _ s).trans (.post ..)
  unfold linkByteArrives
  split
  · exact .refl s
  · split
    · exact overrun
    · exact overrun
    · exact aside_frameByte v h
    · split
      · exact .modLink _ s
      · exact aside_frameByte v h

theorem frameByte_part (v : Byte) (s : State) : (frameByte v s).part = s.part := by
  have hroute (r : LinkRequest) (u : State) : (routeRequest r u).part = u.part := by
    unfold routeRequest
    split
    · exact (Aside.arbServe _).part
    · exact (keeps_respond _ _ _).part
    · exact (keeps_passThrough _ _).part
    · exact (keeps_passThrough _ _).part
    · exact (keeps_answerNow _ _ _).part
  unfold frameByte
  dsimp only
  split
  · rfl
  · split
    · rfl
    · split
      · split
        · exact hroute _ _
        · rfl
      · rfl

theorem linkByteArrives_part (v : Byte) (s : State) : (linkByteArrives v s).part = s.part := by
  unfold linkByteArrives
  split
  · rfl
  · split
    · exact (keeps_overrunByte s).part
    · exact (keeps_overrunByte s).part
    · exact frameByte_part v s
    · split
      · rfl
      · exact frameByte_part v s

theorem writeReported_part (ok : Bool) (w : Snapshot) (s : State) : (writeReported ok w s).part = s.part := by
  unfold writeReported
  dsimp only
  split <;> split
  · rfl
  · exact post_part ..
  · rfl
  · exact post_part ..

theorem enterReady_part (s : State) : (enterReady s).part = .ready := by
  unfold enterReady
  dsimp only
  rw [(keeps_forBays _ _ fun b t => keeps_ite t _ (keeps_enterSettling t b) (.refl t)).part,
    (keeps_forBays _ judge fun b t => keeps_judge t b).part,
    (keeps_forBays _ startFlush fun b t => keeps_startFlush t b).part]
  exact post_part ..

theorem enterDrain_part (s : State) : (enterDrain s).part = .drain := by
  unfold enterDrain
  exact (keeps_drainRest _).part.trans (swathForcedEnd_part _)

/-- Every work ends as it stands or with the close of an act, and DRAINED is entered in that close alone. -/
theorem workOf_ends (c : Instr) {s : State} (hs : s.part ≠ .drained) :
    ∃ u : State, u.part ≠ .drained ∧ (workOf c s = u ∨ workOf c s = finish u) := by
  have stands {u : State} (h : u.part = s.part) (hw : workOf c s = u ∨ workOf c s = finish u) :
      ∃ u : State, u.part ≠ .drained ∧ (workOf c s = u ∨ workOf c s = finish u) := ⟨u, by rwa [h], hw⟩
  cases c with
  | powerOnReset => exact stands rfl (.inl rfl)
  | powerLoss => exact ⟨losePower s, nofun, .inl rfl⟩
  | profileReadDone image =>
    refine ⟨profileRead image s, ?_, .inl rfl⟩
    unfold profileRead
    split
    · split
      · rw [post_part]; exact nofun
      · exact hs
    · exact hs
  | registryLoadDone un hu =>
    simp only [workOf, registryLoaded]
    split
    · split
      · exact ⟨_, (fun h => by cases h), .inr rfl⟩
      · exact ⟨_, by rw [enterReady_part]; decide, .inr rfl⟩
    · exact ⟨s, hs, .inl rfl⟩
  | supplyFailAsserted =>
    simp only [workOf, supplyFails]
    split
    · exact ⟨enterDrain s, by rw [enterDrain_part]; decide, .inr rfl⟩
    · exact ⟨s, hs, .inl rfl⟩
  | supplyFailDeasserted => exact stands rfl (.inl (if_neg hs))
  | linkReset => exact stands (u := swathForcedEnd (linkSideReset s)) (swathForcedEnd_part (linkSideReset s)) (.inr rfl)
  | presenceAsserted b => exact stands (keeps_presenceRises s b).part (.inl rfl)
  | presenceDropped b => exact stands (keeps_presenceDrops s b).part (.inl rfl)
  | settleTimerExpiry b => exact stands (keeps_settleExpires s b).part (.inl rfl)
  | absenceTimerExpiry b => exact stands (keeps_absenceExpires s b).part (.inr rfl)
  | swathRise => exact stands (swathRises_part s) (.inr rfl)
  | swathFall => exact stands (swathFalls_part s) (.inr rfl)
  | swathLimitExpiry => exact stands (swathSplit_part s) (.inr rfl)
  | fireBurst start len => exact stands (aside_burstOffered start len s).part (.inl rfl)
  | fireByte => exact stands (aside_fireByteRead s).part (.inl rfl)
  | linkBurstDone => exact stands (aside_linkBurstCompletes s).part (.inl rfl)
  | linkRequest v => exact stands (linkByteArrives_part v s) (.inl rfl)
  | linkFrameByte v => exact stands (linkByteArrives_part v s) (.inl rfl)
  | linkOverrunByte v => exact stands (linkByteArrives_part v s) (.inl rfl)
  | linkBadframeTimeout => exact stands (keeps_badFrameExpires s).part (.inl rfl)
  | linkStall => exact stands (keeps_stallExpires s).part (.inl rfl)
  | overrunQuietExpiry => exact stands (keeps_overrunQuietExpires s).part (.inl rfl)
  | linkResponseSent => exact stands (keeps_responseSent s).part (.inl rfl)
  | quietWaitElapsed b => exact stands (keeps_modLine s b LineUnit.quietElapsed).part (.inl rfl)
  | tagStrayByte b => exact stands (keeps_lineHeard s b).part (.inl rfl)
  | requestSent b => exact stands (keeps_requestGone s b).part (.inl rfl)
  | tagReply b a => exact stands (keeps_replyArrives s b a).part (.inr rfl)
  | replyTimeout b begun => exact stands (keeps_replyMissing s b begun).part (.inr rfl)
  | pollTimerExpiry b => exact stands (keeps_pollExpires s b).part (.inl rfl)
  | completionLimitExpiry b => exact stands (keeps_limitExpires s b).part (.inr rfl)
  | proofServiceDone => exact stands (keeps_serviceEnds s).part (.inr rfl)
  | idleFlushExpiry b => exact stands (keeps_flushElapsed s b).part (.inr rfl)
  | registryWriteComplete ok =>
    simp only [workOf, writeEnds]
    split
    · exact ⟨s, hs, .inl rfl⟩
    · exact ⟨_, by rwa [writerTurn_part, writeReported_part], .inr rfl⟩
  | noticeFrameSent => exact stands (onlyNotices_frameSent s).part (.inl rfl)
  | resetNDeasserted => exact stands rfl (.inl rfl)

theorem powerOn_part (s : State) : (powerOn s).part = .loading := by
  unfold powerOn
  split <;> rfl

theorem exec_enters_drained {c : Instr} {s t : State} (h : exec c s = .next t) (hs : s.part ≠ .drained)
    (ht : t.part = .drained) : t.saved ∧ t.pins.supplyFail = true := by
  obtain rfl | rfl | ⟨-, rfl⟩ := exec_next_cases h
  · rw [powerOn_part] at ht
    cases ht
  · exact absurd ht hs
  · obtain ⟨u, hu, hw | hw⟩ := workOf_ends c (s := s.modPins (levelsOf c)) hs
    · rw [hw] at ht
      exact absurd ht hu
    · rw [hw] at ht ⊢
      exact finish_enters_drained hu ht

end Sys2Proof.Machine
end

section
/-! SUPPORT. The invariant of DRAINED through every command. -/

namespace Sys2Proof.Machine

/-! ### The invariant of DRAINED outside it -/

/-- Outside DRAINED the invariant speaks of a part that is not READY alone. -/
theorem DrainInv.of_not_drained {s : State} (hpart : s.part ≠ .drained)
    (hadm : s.part ≠ .ready → ∀ b : Bay, s.ctx[b].state.inAdmission = false)
    (hclosed : s.part ≠ .ready → s.tracker.state ≠ .openSwath) : DrainInv s where
  admission := hadm
  closed := hclosed
  saved := fun h => absurd h hpart
  failing := fun h => absurd h hpart
  absence := fun h => absurd h hpart

section
variable {s t : State}

/-- In READY the invariant says nothing. -/
theorem DrainInv.of_ready (h : s.part = .ready) : DrainInv s :=
  .of_not_drained (by rw [h]; decide) (absurd h) (absurd h)

/-- Operations that keep the part state and the tracker and, outside READY, let no bay into admission. -/
theorem DrainInv.calm (h : DrainInv s) (hs : s.part ≠ .drained) (hpart : t.part = s.part)
    (htracker : t.tracker = s.tracker)
    (hcalm : s.part ≠ .ready → (∀ b : Bay, s.ctx[b].state.inAdmission = false) → Calm s t) : DrainInv t := by
  refine .of_not_drained (by rwa [hpart]) (fun hr => ?_) (fun hr => ?_)
  · rw [hpart] at hr
    exact (hcalm hr (h.admission hr)).none_admitted (h.admission hr)
  · rw [hpart] at hr
    rw [htracker]
    exact h.closed hr

theorem DrainInv.calm_keeps (h : DrainInv s) (hs : s.part ≠ .drained) (k : Keeps s t)
    (hcalm : s.part ≠ .ready → (∀ b : Bay, s.ctx[b].state.inAdmission = false) → Calm s t) : DrainInv t :=
  h.calm hs k.part k.tracker hcalm

/-- What leaves part state, contexts, tracker, registry and pins as they are, no commit or line set going, keeps the
invariant, DRAINED or not. -/
theorem DrainInv.aside (h : DrainInv s) (a : Aside s t) : DrainInv t where
  admission := fun hr b => by
    rw [a.part] at hr
    rw [a.ctx]
    exact h.admission hr b
  closed := fun hr => by
    rw [a.part] at hr
    rw [a.tracker]
    exact h.closed hr
  saved := fun hd => by
    rw [a.part] at hd
    obtain ⟨hidle, hentries, hheader, hwrite⟩ := h.saved hd
    refine ⟨fun b => ?_, ?_, ?_, ?_⟩
    · rw [a.commits b, a.lines b]
      exact hidle b
    all_goals rw [a.registry]; assumption
  failing := fun hd => by
    rw [a.part] at hd
    rw [a.powered, a.pins]
    exact h.failing hd
  absence := fun hd b => by
    rw [a.part] at hd
    rw [a.ctx]
    exact h.absence hd b

end

theorem writerTurn_tracker (a : Bool) (s : State) : (writerTurn a s).tracker = s.tracker := (keeps_writerTurn s a).tracker

theorem writerTurn_pins (a : Bool) (s : State) : (writerTurn a s).pins = s.pins := (keeps_writerTurn s a).pins

theorem writerTurn_powered (a : Bool) (s : State) : (writerTurn a s).powered = s.powered := (keeps_writerTurn s a).powered

/-- The close of an act keeps the invariant, and makes what DRAINED means true where it enters it. -/
theorem DrainInv.finish {s : State} (h : DrainInv s) (hs : s.part ≠ .drained) (hpow : s.powered = true) :
    DrainInv (finish s) := by
  have hturn : DrainInv (writerTurn false s) :=
    h.calm hs (writerTurn_part ..) (writerTurn_tracker ..) fun _ _ => .of_ctx (writerTurn_ctx ..)
  by_cases hdone : (writerTurn false s).part = .drain ∧ (writerTurn false s).saved
  · obtain ⟨hpart, hsaved⟩ := hdone
    have hnr : (writerTurn false s).part ≠ .ready := by rw [hpart]; decide
    rw [finish_of_done hpart hsaved]
    cases hfail : (writerTurn false s).pins.supplyFail with
    | false =>
      rw [enterDrained_returned hfail]
      exact .ofReset rfl rfl nofun
    | true =>
      rw [enterDrained_failing hfail]
      refine DrainInv.aside ?_ (.post ..)
      exact {
        admission := fun _ b => by
          dsimp only
          rw [updAll_get]
          exact hturn.admission hnr b
        closed := fun _ => hturn.closed hnr
        saved := fun _ => hsaved
        failing := fun _ => ⟨(writerTurn_powered false s).trans hpow, hfail⟩
        absence := fun _ b => by
          dsimp only
          rw [updAll_get] }
  · rwa [finish_of_not_done hdone]

/-- Outside READY no commit starts (R84). -/
theorem judge_of_not_ready {s : State} (b : Bay) (h : s.part ≠ .ready) : judge b s = s := by
  have hclosed : ¬CommitOpen s b := fun ⟨_, _, _, hready⟩ => h hready
  unfold judge
  rw [commitDue_of_not_open hclosed]

/-! ### Small acts of the link port and the lines -/

theorem aside_badFrameExpires (s : State) : Aside s (badFrameExpires s) := by
  unfold badFrameExpires
  split
  · exact .modLink _ s
  · exact .refl s

theorem aside_stallExpires (s : State) : Aside s (stallExpires s) := by
  unfold stallExpires
  split
  · exact (Aside.post ..).after (.modLink _ s)
  · exact .refl s

theorem aside_overrunQuietExpires (s : State) : Aside s (overrunQuietExpires s) := .modLink _ s

theorem aside_responseSent (s : State) : Aside s (responseSent s) := by
  unfold responseSent
  split
  · exact .modLink _ s
  · exact .refl s

theorem aside_quietElapsed (b : Bay) (s : State) : Aside s (s.modLine b LineUnit.quietElapsed) := by
  refine .modLine ?_
  unfold LineUnit.quietElapsed
  split
  · split <;> rfl
  · rfl

theorem requestGone_ctx (b : Bay) (s : State) : (requestGone b s).ctx = s.ctx := by
  unfold requestGone
  split
  · dsimp only
    split <;> rfl
  · rfl

theorem pollExpires_ctx (b : Bay) (s : State) : (pollExpires b s).ctx = s.ctx := by
  unfold pollExpires
  split <;> rfl

/-! ### The entry to DRAIN -/

theorem calm_withdrawCommit (b : Bay) (s : State) : Calm s (withdrawCommit b s) := by
  unfold withdrawCommit
  split
  · exact (calm_commitOutcome b .withdrawn _).after rfl
  · exact .refl s

theorem withdrawMark_ctx (b : Bay) (s : State) : (withdrawMark b s).ctx = s.ctx := by
  unfold withdrawMark
  dsimp only
  rw [modMark_ctx]
  split
  · rfl
  · rfl

theorem withdrawLink_ctx (b : Bay) (s : State) : (withdrawLink b s).ctx = s.ctx := by
  unfold withdrawLink
  split
  · exact respond_ctx ..
  · rfl

theorem linkDrainWaiting_ctx (s : State) : (linkDrainWaiting s).ctx = s.ctx := by
  unfold linkDrainWaiting
  split
  · split
    · exact respond_ctx ..
    · rfl
  · rfl

theorem dirtyInBay_ctx (s : State) : (dirtyInBay s).ctx = s.ctx := by unfold dirtyInBay; rfl

theorem calm_drainBay (b : Bay) (s : State) : Calm s (drainBay b s) := by
  unfold drainBay
  split
  · exact calm_releaseBay b s
  · exact .refl s

theorem releaseBay_ctx (b : Bay) (s : State) : (releaseBay b s).ctx = upd s.ctx b fun _ => BayContext.reset := rfl

/-- A bay in admission is EMPTY after its turn (R27). -/
theorem drainBay_not_inAdmission (b : Bay) (s : State) : (drainBay b s).ctx[b].state.inAdmission = false := by
  cases h : s.ctx[b].state.inAdmission with
  | true =>
    have hrel : drainBay b s = releaseBay b s := if_pos h
    rw [hrel, releaseBay_ctx, upd_self]
    rfl
  | false =>
    have hkept : drainBay b s = s := if_neg (ne_true_of_eq_false h)
    rw [hkept, h]

/-- After all bays' turns none is in admission. -/
theorem forBays_drainBay_not_inAdmission (s : State) (b : Bay) :
    (forBays drainBay s).ctx[b].state.inAdmission = false := by
  have hfold : ∀ (l : List Bay) (s : State), (b ∈ l ∨ s.ctx[b].state.inAdmission = false) →
      (l.foldl (fun t b => drainBay b t) s).ctx[b].state.inAdmission = false := by
    intro l
    induction l with
    | nil => exact fun s h => h.resolve_left (by simp)
    | cons d l ih =>
      intro s h
      refine ih _ ?_
      by_cases hdb : b = d
      · subst hdb
        exact .inr (drainBay_not_inAdmission b s)
      · obtain hmem | hout := h
        · exact .inl ((List.mem_cons.mp hmem).resolve_left hdb)
        · refine .inr (Bool.eq_false_iff.mpr fun hin => ?_)
          rw [(calm_drainBay d s).before b hin] at hout
          cases hout
  exact hfold allBays s (.inl (mem_allBays b))

/-- The pieces of the entry to DRAIN that follow the bays' turns let no bay into admission. -/
theorem calm_drainRest (s : State) : Calm s (linkDrainWaiting (dirtyInBay (forBays fold (forBays withdrawLink
    (forBays withdrawMark (forBays withdrawCommit s)))))) := by
  have h1 : Calm s (forBays withdrawCommit s) := Calm.forBays calm_withdrawCommit
  have h2 := h1.trans (Calm.forBays (f := withdrawMark) fun b t => .of_ctx (withdrawMark_ctx b t))
  have h3 := h2.trans (Calm.forBays (f := withdrawLink) fun b t => .of_ctx (withdrawLink_ctx b t))
  have h4 := h3.trans (Calm.forBays (f := fold) fun b t => .of_ctx (fold_ctx b t))
  exact (h4.trans (.of_ctx (dirtyInBay_ctx _))).trans (.of_ctx (linkDrainWaiting_ctx _))

theorem swathEndTo_tracker (next : TrackerState) (s : State) : (swathEndTo next s).tracker =
    { state := next, number := s.tracker.number, gate := .replicate 8 false, owner := .replicate 8 none,
      limit := .stopped } := by
  unfold swathEndTo
  dsimp only
  rw [swathEnd_tracker]

theorem swathForcedEnd_closed (s : State) : (swathForcedEnd s).tracker.state ≠ .openSwath := by
  unfold swathForcedEnd
  split
  · rw [swathEndTo_tracker]
    dsimp only
    decide
  · assumption

theorem DrainInv.enterDrain (s : State) : DrainInv (enterDrain s) := by
  refine .of_not_drained (by rw [enterDrain_part]; decide) (fun _ => ?_) (fun _ => ?_)
  · unfold Machine.enterDrain
    dsimp only
    exact (calm_drainRest _).none_admitted (forBays_drainBay_not_inAdmission _)
  · unfold Machine.enterDrain
    dsimp only
    rw [(keeps_drainRest _).tracker]
    exact swathForcedEnd_closed _

/-! ### Every command -/

theorem writeReported_aside_ctx_tracker (ok : Bool) (w : Snapshot) (s : State) :
    (writeReported ok w s).tracker = s.tracker ∧ (writeReported ok w s).powered = s.powered := by
  unfold writeReported
  dsimp only
  split <;> split
  · exact ⟨rfl, rfl⟩
  · exact ⟨post_tracker .., post_powered ..⟩
  · exact ⟨rfl, rfl⟩
  · exact ⟨post_tracker .., post_powered ..⟩

theorem swathFalls_of_not_open {s : State} (h : s.tracker.state ≠ .openSwath) :
    (swathFalls s).ctx = s.ctx ∧ (swathFalls s).tracker.state ≠ .openSwath := by
  unfold swathFalls
  split
  · next ho => exact absurd ho h
  · exact ⟨rfl, nofun⟩
  · exact ⟨rfl, h⟩

theorem swathSplit_of_not_open {s : State} (h : s.tracker.state ≠ .openSwath) : swathSplit s = s := by
  unfold swathSplit
  split
  · next ho _ => exact absurd ho h
  · rfl

theorem swathForcedEnd_of_not_open {s : State} (h : s.tracker.state ≠ .openSwath) : swathForcedEnd s = s := if_neg h

theorem swathRises_of_not_ready {s : State} (h : s.part ≠ .ready) : swathRises s = s := if_neg fun hs => h hs.2

theorem swathEnd_powered (s : State) : (swathEnd s).powered = s.powered := by
  have h := swathEnd_outer s
  generalize swathEnd s = t at h ⊢
  exact congrArg Outer.powered h

theorem swathEndTo_powered (next : TrackerState) (s : State) : (swathEndTo next s).powered = s.powered := by
  unfold swathEndTo
  dsimp only
  exact swathEnd_powered s

theorem swathForcedEnd_powered (s : State) : (swathForcedEnd s).powered = s.powered := by
  unfold swathForcedEnd
  split
  · exact swathEndTo_powered _ s
  · rfl

theorem swathStart_powered (s : State) : (swathStart s).powered = s.powered := by
  rw [swathStart_eq]
  exact (keeps_forBays _ judge fun b t => keeps_judge t b).powered

theorem swathRises_powered (s : State) : (swathRises s).powered = s.powered := by
  unfold swathRises
  split
  · exact swathStart_powered s
  · rfl

theorem swathFalls_powered (s : State) : (swathFalls s).powered = s.powered := by
  unfold swathFalls
  split
  · exact swathEndTo_powered _ s
  · rfl
  · rfl

theorem swathSplit_powered (s : State) : (swathSplit s).powered = s.powered := by
  unfold swathSplit
  split
  · rw [post_powered, swathStart_powered, swathEnd_powered]
  · rfl

theorem enterReady_powered (s : State) : (enterReady s).powered = s.powered := by
  unfold enterReady
  dsimp only
  rw [(keeps_forBays _ _ fun b t => keeps_ite t _ (keeps_enterSettling t b) (.refl t)).powered,
    (keeps_forBays _ judge fun b t => keeps_judge t b).powered,
    (keeps_forBays _ startFlush fun b t => keeps_startFlush t b).powered]
  exact post_powered ..

theorem enterDrain_powered (s : State) : (enterDrain s).powered = s.powered := by
  unfold enterDrain
  exact (keeps_drainRest _).powered.trans (swathForcedEnd_powered _)

theorem loadRegistry_ctx (un : List EntryIx) (hu : Bool) (s : State) : (loadRegistry un hu s).ctx = s.ctx := by
  unfold loadRegistry
  dsimp only
  split
  · rfl
  · exact post_ctx ..

theorem DrainInv.profileRead {s : State} (h : DrainInv s) (hs : s.part ≠ .drained) (image : List Byte) :
    DrainInv (profileRead image s) := by
  unfold Machine.profileRead
  split
  · next hload _ =>
    have hnr : s.part ≠ .ready := by rw [hload]; decide
    split
    · refine DrainInv.aside ?_ (.post ..)
      exact .of_not_drained nofun (fun _ => h.admission hnr) (fun _ => h.closed hnr)
    · exact .of_not_drained hs h.admission h.closed
  · exact h

theorem DrainInv.registryLoaded {s : State} (h : DrainInv s) (hpow : s.powered = true)
    (un : List EntryIx) (hu : Bool) : DrainInv (registryLoaded un hu s) := by
  unfold Machine.registryLoaded
  split
  · next hload _ =>
    have hnr : s.part ≠ .ready := by rw [hload]; decide
    have k := keeps_loadRegistry un hu s
    dsimp only
    split
    · refine DrainInv.finish (.of_not_drained nofun (fun _ => ?_) (fun _ => ?_)) nofun (k.powered.trans hpow)
      · dsimp only
        rw [loadRegistry_ctx]
        exact h.admission hnr
      · dsimp only
        rw [k.tracker]
        exact h.closed hnr
    · refine DrainInv.finish (.of_ready (enterReady_part _)) ?_ ?_
      · rw [enterReady_part]; decide
      · rw [enterReady_powered, k.powered, hpow]
  · exact h

/-- Outside DRAINED the work of a command keeps the invariant. -/
theorem DrainInv.workActive {s : State} (h : DrainInv s) (hs : s.part ≠ .drained) (hpow : s.powered = true)
    (c : Instr) : DrainInv (workOf c s) := by
  have closes {t : State} (k : Keeps s t)
      (hcalm : s.part ≠ .ready → (∀ b : Bay, s.ctx[b].state.inAdmission = false) → Calm s t) :
      DrainInv (Machine.finish t) :=
    (h.calm_keeps hs k hcalm).finish (by rwa [k.part]) (by rwa [k.powered])
  have swath {t : State} (hpart : t.part = s.part) (hp : t.powered = s.powered) (hrest : s.part ≠ .ready →
      t.ctx = s.ctx ∧ t.tracker.state ≠ .openSwath) : DrainInv (Machine.finish t) := by
    refine DrainInv.finish (.of_not_drained (by rwa [hpart]) (fun hr => ?_) (fun hr => ?_)) (by rwa [hpart]) (by rwa [hp])
    · rw [hpart] at hr
      rw [(hrest hr).1]
      exact h.admission hr
    · rw [hpart] at hr
      exact (hrest hr).2
  have linked (v : Byte) : DrainInv (linkByteArrives v s) := by
    by_cases hr : s.part = .ready
    · exact .of_ready ((linkByteArrives_part v s).trans hr)
    · exact h.aside (aside_linkByteArrives v hr)
  cases c with
  | powerOnReset => exact h
  | powerLoss => exact .ofReset rfl rfl nofun
  | profileReadDone image => exact h.profileRead hs image
  | registryLoadDone un hu => exact h.registryLoaded hpow un hu
  | supplyFailAsserted =>
    simp only [workOf, supplyFails]
    split
    · refine (DrainInv.enterDrain s).finish ?_ ((enterDrain_powered s).trans hpow)
      rw [enterDrain_part]
      decide
    · exact h
  | supplyFailDeasserted =>
    have hstays : workOf .supplyFailDeasserted s = s := if_neg hs
    rwa [hstays]
  | linkReset =>
    refine swath (swathForcedEnd_part (linkSideReset s)) (swathForcedEnd_powered (linkSideReset s)) fun hr => ?_
    have hclosed : (linkSideReset s).tracker.state ≠ .openSwath := h.closed hr
    rw [swathForcedEnd_of_not_open hclosed]
    exact ⟨rfl, hclosed⟩
  | presenceAsserted b => exact h.calm_keeps hs (keeps_presenceRises s b) fun hr _ => calm_presenceRises hr
  | presenceDropped b => exact h.calm_keeps hs (keeps_presenceDrops s b) fun _ _ => calm_presenceDrops b s
  | settleTimerExpiry b =>
    refine h.calm_keeps hs (keeps_settleExpires s b) fun _ hadm => ?_
    simp only [workOf, settleExpires_of_not_inAdmission (hadm b)]
    exact .refl s
  | absenceTimerExpiry b => exact closes (keeps_absenceExpires s b) fun _ _ => calm_absenceExpires b s
  | swathRise =>
    refine swath (swathRises_part s) (swathRises_powered s) fun hr => ?_
    rw [swathRises_of_not_ready hr]
    exact ⟨rfl, h.closed hr⟩
  | swathFall => exact swath (swathFalls_part s) (swathFalls_powered s) fun hr => swathFalls_of_not_open (h.closed hr)
  | swathLimitExpiry =>
    refine swath (swathSplit_part s) (swathSplit_powered s) fun hr => ?_
    rw [swathSplit_of_not_open (h.closed hr)]
    exact ⟨rfl, h.closed hr⟩
  | fireBurst start len => exact h.aside (aside_burstOffered start len s)
  | fireByte => exact h.aside (aside_fireByteRead s)
  | linkBurstDone => exact h.aside (aside_linkBurstCompletes s)
  | linkRequest v => exact linked v
  | linkFrameByte v => exact linked v
  | linkOverrunByte v => exact linked v
  | linkBadframeTimeout => exact h.aside (aside_badFrameExpires s)
  | linkStall => exact h.aside (aside_stallExpires s)
  | overrunQuietExpiry => exact h.aside (aside_overrunQuietExpires s)
  | linkResponseSent => exact h.aside (aside_responseSent s)
  | quietWaitElapsed b => exact h.aside (aside_quietElapsed b s)
  | tagStrayByte b => exact h.aside (.modLine rfl)
  | requestSent b => exact h.calm_keeps hs (keeps_requestGone s b) fun _ _ => .of_ctx (requestGone_ctx b s)
  | tagReply b a => exact closes (keeps_replyArrives s b a) fun _ hadm => calm_replyArrives hadm b a
  | replyTimeout b begun => exact closes (keeps_replyMissing s b begun) fun _ hadm => calm_replyMissing hadm b begun
  | pollTimerExpiry b => exact h.calm_keeps hs (keeps_pollExpires s b) fun _ _ => .of_ctx (pollExpires_ctx b s)
  | completionLimitExpiry b => exact closes (keeps_limitExpires s b) fun _ hadm => calm_limitExpires hadm b
  | proofServiceDone => exact closes (keeps_serviceEnds s) fun _ hadm => calm_serviceEnds hadm
  | idleFlushExpiry b => exact closes (keeps_flushElapsed s b) fun _ _ => calm_flushElapsed b s
  | registryWriteComplete ok =>
    simp only [workOf, writeEnds]
    split
    · exact h
    · next w _ =>
      obtain ⟨htracker, hp⟩ := writeReported_aside_ctx_tracker ok w s
      refine swath ((writerTurn_part ..).trans (writeReported_part ok w s)) ((writerTurn_powered ..).trans hp) fun hr => ?_
      rw [writerTurn_ctx, writerTurn_tracker, writeReported_ctx, htracker]
      exact ⟨rfl, h.closed hr⟩
  | noticeFrameSent => exact h.aside (.of_onlyNotices (onlyNotices_frameSent s))
  | resetNDeasserted => exact h

/-! ### In DRAINED -/

/-- In DRAINED the work of a command is a reset, or leaves all that the invariant speaks of as it was. -/
theorem DrainInv.workDrained {s : State} (h : DrainInv s) (hd : s.part = .drained) (c : Instr) :
    DrainInv (workOf c s) := by
  have hnr : s.part ≠ .ready := by rw [hd]; decide
  have hadm := h.admission hnr
  have hclosed := h.closed hnr
  obtain ⟨hidle, -, -, hwrite⟩ := h.saved hd
  have closes {t : State} (a : Aside s t) : DrainInv (Machine.finish t) := by
    rw [finish_of_drained (a.part.trans hd)]
    exact h.aside a
  have absent (b : Bay) : s.ctx[b].absence = .stopped := h.absence hd b
  cases c with
  | powerOnReset => exact h
  | powerLoss => exact .ofReset rfl rfl nofun
  | profileReadDone image =>
    have hstays : workOf (.profileReadDone image) s = s := by simp [workOf, Machine.profileRead, hd]
    rwa [hstays]
  | registryLoadDone un hu =>
    have hstays : workOf (.registryLoadDone un hu) s = s := by simp [workOf, Machine.registryLoaded, hd]
    rwa [hstays]
  | supplyFailAsserted =>
    have hstays : workOf .supplyFailAsserted s = s := if_neg hnr
    rwa [hstays]
  | supplyFailDeasserted =>
    have hrestarts : workOf .supplyFailDeasserted s = restart s := if_pos hd
    rw [hrestarts]
    exact .ofReset rfl rfl nofun
  | linkReset =>
    have hside : Aside s (linkSideReset s) := by
      refine ⟨rfl, rfl, rfl, rfl, rfl, rfl, fun _ => rfl, fun b => ?_⟩
      unfold linkSideReset
      dsimp only
      rw [updAll_get]
      rfl
    have hstays : swathForcedEnd (linkSideReset s) = linkSideReset s := swathForcedEnd_of_not_open hclosed
    show DrainInv (Machine.finish (swathForcedEnd (linkSideReset s)))
    rw [hstays]
    exact closes hside
  | presenceAsserted b =>
    have hstays : workOf (.presenceAsserted b) s = s := by
      by_cases hempty : s.ctx[b].state = .empty
      · exact presenceRises_of_empty_not_ready hempty hnr
      · exact presenceRises_of_seated_idle hempty (.inr (absent b))
    rwa [hstays]
  | presenceDropped b =>
    have hstays : workOf (.presenceDropped b) s = s :=
      presenceDrops_of_ignored (.inr (by rw [hd]; decide))
    rwa [hstays]
  | settleTimerExpiry b =>
    have hstays : workOf (.settleTimerExpiry b) s = s := settleExpires_of_not_inAdmission (hadm b)
    rwa [hstays]
  | absenceTimerExpiry b =>
    have hstays : absenceExpires b s = s := by
      unfold absenceExpires
      rw [absent b]
    show DrainInv (Machine.finish (absenceExpires b s))
    rw [hstays]
    exact closes (.refl s)
  | swathRise =>
    show DrainInv (Machine.finish (swathRises s))
    rw [swathRises_of_not_ready hnr]
    exact closes (.refl s)
  | swathFall =>
    show DrainInv (Machine.finish (swathFalls s))
    rw [finish_of_drained ((swathFalls_part s).trans hd)]
    unfold swathFalls
    split
    · next hopen => exact absurd hopen hclosed
    · exact { h with closed := fun _ => nofun }
    · exact h
  | swathLimitExpiry =>
    show DrainInv (Machine.finish (swathSplit s))
    rw [swathSplit_of_not_open hclosed]
    exact closes (.refl s)
  | fireBurst start len => exact h.aside (aside_burstOffered start len s)
  | fireByte => exact h.aside (aside_fireByteRead s)
  | linkBurstDone => exact h.aside (aside_linkBurstCompletes s)
  | linkRequest v => exact h.aside (aside_linkByteArrives v hnr)
  | linkFrameByte v => exact h.aside (aside_linkByteArrives v hnr)
  | linkOverrunByte v => exact h.aside (aside_linkByteArrives v hnr)
  | linkBadframeTimeout => exact h.aside (aside_badFrameExpires s)
  | linkStall => exact h.aside (aside_stallExpires s)
  | overrunQuietExpiry => exact h.aside (aside_overrunQuietExpires s)
  | linkResponseSent => exact h.aside (aside_responseSent s)
  | quietWaitElapsed b => exact h.aside (aside_quietElapsed b s)
  | tagStrayByte b => exact h.aside (.modLine rfl)
  | requestSent b =>
    have hstays : workOf (.requestSent b) s = s := by
      show requestGone b s = s
      unfold requestGone
      rw [(hidle b).2]
    rwa [hstays]
  | tagReply b a =>
    have hheard : replyArrives b a s = lineHeard b s := by
      unfold replyArrives
      rw [(hidle b).2]
    show DrainInv (Machine.finish (replyArrives b a s))
    rw [hheard]
    exact closes (.modLine rfl)
  | replyTimeout b begun =>
    have hstays : replyMissing b begun s = s := by
      unfold replyMissing
      rw [(hidle b).2]
    show DrainInv (Machine.finish (replyMissing b begun s))
    rw [hstays]
    exact closes (.refl s)
  | pollTimerExpiry b =>
    have hstays : workOf (.pollTimerExpiry b) s = s := by
      show pollExpires b s = s
      unfold pollExpires
      rw [(hidle b).2]
    rwa [hstays]
  | completionLimitExpiry b =>
    refine closes ?_
    unfold limitExpires
    split
    · rw [if_neg (by rw [(hidle b).2]; decide)]
      exact .modLine rfl
    · exact .refl s
  | proofServiceDone =>
    refine closes ?_
    unfold serviceEnds
    split
    · exact .refl s
    · next r _ =>
      have hcomputed : Aside s (proofComputed r.inputs s) := by
        unfold proofComputed
        split
        · exact ⟨rfl, rfl, rfl, rfl, rfl, rfl, fun _ => rfl, fun _ => rfl⟩
        · exact .refl s
        · exact .refl s
      have hdropped : deliver r (proofResult s r.inputs) (proofComputed r.inputs s) = proofComputed r.inputs s := by
        unfold deliver
        split
        · rfl
        · split
          · exact admissionResult_of_not_inAdmission _ _ (by rw [hcomputed.ctx]; exact hadm _)
          · unfold checkCodeArrives
            dsimp only
            rw [hcomputed.commits, (hidle _).1]
      dsimp only
      rw [hdropped]
      exact hcomputed.trans (.setProof _ _)
  | idleFlushExpiry b =>
    refine closes ?_
    unfold flushElapsed
    split
    · have hjudged : judge b (s.modCommit b fun c => { c with flush := .elapsed }) =
          s.modCommit b fun c => { c with flush := .elapsed } := judge_of_not_ready b (by rwa [modCommit_part])
      rw [hjudged]
      exact .modCommit rfl
    · exact .refl s
  | registryWriteComplete ok =>
    have hstays : workOf (.registryWriteComplete ok) s = s := by simp [workOf, writeEnds, hwrite]
    rwa [hstays]
  | noticeFrameSent => exact h.aside (.of_onlyNotices (onlyNotices_frameSent s))
  | resetNDeasserted => exact h

/-- A command that brings any level but the return of SUPPLY_FAIL keeps the invariant as it brings it. -/
theorem DrainInv.levels {s : State} (h : DrainInv s) {c : Instr} (hc : c ≠ .supplyFailDeasserted) :
    DrainInv (s.modPins (levelsOf c)) where
  admission := h.admission
  closed := h.closed
  saved := h.saved
  failing := fun hd => by
    obtain ⟨hpow, hfail⟩ := h.failing hd
    refine ⟨hpow, ?_⟩
    rw [modPins_pins]
    cases c with
    | supplyFailAsserted => rfl
    | supplyFailDeasserted => exact absurd rfl hc
    | _ => exact hfail
  absence := h.absence

theorem DrainInv.work {s : State} (h : DrainInv s) (hpow : s.powered = true) (c : Instr) : DrainInv (workOf c s) := by
  by_cases hd : s.part = .drained
  · exact h.workDrained hd c
  · exact h.workActive hd hpow c

theorem DrainInv.powerOn (s : State) : DrainInv (powerOn s) := by
  unfold Machine.powerOn
  split
  · exact .ofReset rfl rfl nofun
  · exact .ofReset rfl rfl nofun

theorem DrainInv.exec {c : Instr} {s t : State} (h : DrainInv s) (ht : exec c s = .next t) : DrainInv t := by
  by_cases hc : c = .supplyFailDeasserted
  · subst hc
    by_cases hd : s.part = .drained
    · obtain ⟨hpow, -⟩ := h.failing hd
      rw [exec_of_powered (by decide) rfl hpow] at ht
      have hrestarts : t = restart (s.modPins (levelsOf .supplyFailDeasserted)) :=
        (Host.Outcome.next.inj ht).symm.trans (if_pos hd)
      rw [hrestarts]
      exact .ofReset rfl rfl nofun
    · have hlevel : DrainInv (s.modPins (levelsOf .supplyFailDeasserted)) := .of_not_drained hd h.admission h.closed
      obtain rfl | rfl | ⟨hpow, rfl⟩ := exec_next_cases ht
      · exact .powerOn s
      · exact hlevel
      · exact hlevel.work hpow _
  · obtain rfl | rfl | ⟨hpow, rfl⟩ := exec_next_cases ht
    · exact .powerOn s
    · exact h.levels hc
    · exact (h.levels hc).work hpow c

theorem DrainInv.step {s t : State} (h : DrainInv s) (ht : step s = .next t) : DrainInv t := by
  obtain rfl | ⟨c, cs, -, hexec⟩ := step_cases ht
  · exact h
  · have hqueue : DrainInv { s with pending := cs } :=
      ⟨h.admission, h.closed, h.saved, h.failing, h.absence⟩
    exact hqueue.exec hexec

/-- Settles O13: DRAINED is entered in the close of an act alone, which finds all saved; and the invariant is kept by
every step, so that it speaks of the state a step leaves. -/
theorem drainedOnlyWhenAllIsSaved : Obligations.DrainedOnlyWhenAllIsSaved := by
  unfold Obligations.DrainedOnlyWhenAllIsSaved
  refine ⟨fun s t ht hs hd => ?_, fun s t h ht => h.step ht, fun s t h ht _ hd => ?_⟩
  · obtain rfl | ⟨c, cs, -, hexec⟩ := step_cases ht
    · exact absurd hd hs
    · exact exec_enters_drained hexec hs hd
  · exact ⟨(h.step ht).saved hd, ((h.step ht).failing hd).2⟩

end Sys2Proof.Machine
end

section
/-! SUPPORT. The fire port, the swath memory port and its arbiter (R41, R44, R59, R60). -/

namespace Sys2Proof.Machine

/-! ### The arbiter's rows (R60) -/

section
variable {s : State}

theorem arbServe_of_busy (h : s.port.use ≠ .idle) : arbServe s = s := if_pos h

theorem arbServe_of_no_claim (hidle : s.port.use = .idle) (hfire : s.fire.waiting = []) (hlink : s.port.linkClaim = none) :
    arbServe s = s := by
  unfold arbServe
  rw [if_neg (not_not.mpr hidle), hfire, hlink]
  rfl

theorem serveFire_cons {f : FireBurst} {fs : List FireBurst} (run : Nat) (h : s.fire.waiting = f :: fs) :
    serveFire run s = { s with fire := { s.fire with service := some f, waiting := fs },
                               port := { s.port with use := .fire, runCount := run } } := by
  unfold serveFire
  rw [h]

theorem arbServe_of_fire {f : FireBurst} {fs : List FireBurst} (hidle : s.port.use = .idle)
    (hfire : s.fire.waiting = f :: fs) (hlink : s.port.linkClaim = none) :
    arbServe s = { s with fire := { s.fire with service := some f, waiting := fs },
                          port := { s.port with use := .fire } } := by
  unfold arbServe
  rw [if_neg (not_not.mpr hidle), hfire, hlink]
  exact serveFire_cons _ hfire

theorem arbServe_of_fire_in_run {f : FireBurst} {fs : List FireBurst} (hidle : s.port.use = .idle)
    (hfire : s.fire.waiting = f :: fs) (hlink : s.port.linkClaim ≠ none) (hrun : s.port.runCount < 4) :
    arbServe s = { s with fire := { s.fire with service := some f, waiting := fs },
                          port := { s.port with use := .fire, runCount := s.port.runCount + 1 } } := by
  obtain ⟨l, hl⟩ := Option.ne_none_iff_exists'.mp hlink
  unfold arbServe
  rw [if_neg (not_not.mpr hidle), hfire, hl]
  exact (if_pos hrun).trans (serveFire_cons _ hfire)

theorem arbServe_of_link {l : LinkBurst} (hidle : s.port.use = .idle) (hlink : s.port.linkClaim = some l)
    (hturn : s.fire.waiting = [] ∨ 4 ≤ s.port.runCount) :
    arbServe s = { s with port := { use := .link, linkClaim := none, linkService := some l, runCount := 0 } } := by
  unfold arbServe
  rw [if_neg (not_not.mpr hidle), hlink]
  cases hfire : s.fire.waiting with
  | nil => rfl
  | cons f fs =>
    have hrun : ¬s.port.runCount < 4 := by
      rw [hfire] at hturn
      have := hturn.resolve_left (by simp)
      omega
    exact if_neg hrun

end

/-! ### Fire bursts -/

theorem exec_fireBurst_taken {start : Addr24} {len : Nat} {s : State} (hpow : s.powered = true) (hlow : 1 ≤ len)
    (hhigh : len ≤ 256) (hheld : s.fire.service.toList.length + s.fire.waiting.length < 2) :
    exec (.fireBurst start len) s = .next (arbServe { s with
      fire := { s.fire with waiting := s.fire.waiting ++ [{ next := start, left := len }] } }) := by
  rw [exec_of_powered (by simp) (by simp [Instr.wellFormed, hlow, hhigh]) hpow]
  exact congrArg Host.Outcome.next (if_pos hheld)

/-- Settles O28: the port's count decides, and a length outside R41's range is refused. -/
theorem fireBurstTakenWhileFewerThanTwo : Obligations.FireBurstTakenWhileFewerThanTwo := by
  unfold Obligations.FireBurstTakenWhileFewerThanTwo
  refine fun start len s hpow => ⟨fun hlow hhigh => ⟨exec_fireBurst_taken hpow hlow hhigh, fun hfull => ?_⟩, fun hlen => ?_⟩
  · rw [exec_of_powered (by simp) (by simp [Instr.wellFormed, hlow, hhigh]) hpow]
    exact congrArg Host.Outcome.next (if_neg (by unfold FirePort.held; exact not_lt.mpr hfull))
  · exact if_neg (by omega)

/-- Settles O29: each row of R60's table, and the three occasions on which the arbiter runs. -/
theorem arbiterFollowsItsTable : Obligations.ArbiterFollowsItsTable := by
  unfold Obligations.ArbiterFollowsItsTable
  refine fun s => ⟨arbServe_of_busy, fun hidle => ⟨arbServe_of_no_claim hidle, fun f fs hfire => ?_, fun l => ?_⟩, rfl,
    fun start len => exec_fireBurst_taken, fun r hspace => ?_⟩
  · exact ⟨arbServe_of_fire hidle hfire, arbServe_of_fire_in_run hidle hfire⟩
  · exact arbServe_of_link hidle
  · have hroute : routeOf s r = .swath := by unfold routeOf; rw [hspace]
    unfold routeRequest
    rw [hroute]

/-! ### Fire bytes -/

/-- The meter keeps the fire port. -/
theorem meterByte_fire (a : Addr24) (v : Byte) (s : State) : (meterByte a v s).1.fire = s.fire := by
  have counted (b : Bay) : (countByte b v s).1.fire = s.fire := by
    unfold countByte
    dsimp only
    split
    · rfl
    · exact post_fire ..
  have planed (b : Bay) : (meterPlane b a v s).1.fire = s.fire := by
    unfold meterPlane
    split
    · split
      · exact counted b
      · rfl
    · exact post_fire ..
    · exact post_fire ..
  unfold meterByte
  split
  case h_4 =>
    split
    · exact planed _
    · rfl
  all_goals rfl

/-- Settles O31: the byte read goes through the meter, and the last one frees the port. -/
theorem fireByteReadMeteredAndReturned : Obligations.FireByteReadMeteredAndReturned := by
  unfold Obligations.FireByteReadMeteredAndReturned
  refine fun s hpow => ⟨fun hnone => ?_, fun f hserved => ?_⟩
  · rw [exec_of_powered (by decide) rfl hpow]
    show Host.Outcome.next (fireByteRead s) = _
    unfold fireByteRead
    rw [hnone]
  · have hfire := meterByte_fire f.next (Memory.read s.sram f.next.toNat) s
    have hread : exec .fireByte s = .next (fireByteRead s) := exec_of_powered (by decide) rfl hpow
    rw [hread]
    unfold fireByteRead
    rw [hserved]
    dsimp only
    generalize meterByte f.next (Memory.read s.sram f.next.toNat) s = m at hfire ⊢
    constructor
    · intro hmore
      rw [if_neg (by omega), hfire]
    · intro hlast
      rw [if_pos hlast, hfire]

end Sys2Proof.Machine
end

section
/-! SUPPORT. The link port's timers and responses (R140, R141, R143, R181). -/

namespace Sys2Proof.Machine

theorem toLE_length : ∀ n v : Nat, (toLE n v).length = n
  | 0, _ => rfl
  | n + 1, v => congrArg (· + 1) (toLE_length n (v / 256))

/-- A response frame is its status, its data and the CRC-16 of these, low byte first (R143, R181). -/
theorem responseFrame_parts (r : LinkResponse) :
    r.frame.length = 3 + r.data.length ∧ r.frame.headD 0 = r.status.code ∧
      r.frame.take (1 + r.data.length) = r.status.code :: r.data ∧
      r.frame.drop (1 + r.data.length) = toLE 2 (crc16 (r.frame.take (1 + r.data.length))).toNat := by
  have hlen : (r.status.code :: r.data).length = 1 + r.data.length := by
    rw [List.length_cons, Nat.add_comm]
  have htake : r.frame.take (1 + r.data.length) = r.status.code :: r.data := by
    rw [← hlen]
    exact List.take_left ..
  refine ⟨?_, rfl, htake, ?_⟩
  · unfold LinkResponse.frame
    dsimp only
    rw [List.length_append, hlen, toLE_length]
    omega
  · rw [htake, ← hlen]
    exact List.drop_left ..

/-- Settles O35: each command acts in the port state it names alone, and a response's parts stand in its frame. -/
theorem linkTimersAndTheEndOfAResponse : Obligations.LinkTimersAndTheEndOfAResponse := by
  unfold Obligations.LinkTimersAndTheEndOfAResponse
  refine ⟨fun s hpow => ?_, responseFrame_parts, rfl, rfl, rfl, rfl, rfl, rfl⟩
  have hbad : exec .linkBadframeTimeout s = .next (badFrameExpires s) := exec_of_powered (by decide) rfl hpow
  have hstall : exec .linkStall s = .next (stallExpires s) := exec_of_powered (by decide) rfl hpow
  have hsent : exec .linkResponseSent s = .next (responseSent s) := exec_of_powered (by decide) rfl hpow
  rw [hbad, hstall, hsent]
  refine ⟨fun hrecv hmark => ?_, fun hnot => ?_, fun hrecv hmark => ?_, fun hnot => ?_, fun hresp => ?_, fun hresp => ?_⟩
  · exact congrArg Host.Outcome.next (if_pos ⟨hrecv, hmark⟩)
  · refine congrArg Host.Outcome.next (if_neg fun h => ?_)
    exact hnot.elim (· h.1) (fun hclear => absurd h.2 (ne_true_of_eq_false hclear))
  · exact congrArg Host.Outcome.next (if_pos ⟨hrecv, hmark⟩)
  · refine congrArg Host.Outcome.next (if_neg fun h => ?_)
    exact hnot.elim (· h.1) (fun hmark => absurd hmark (ne_true_of_eq_false h.2))
  · exact congrArg Host.Outcome.next (if_pos hresp)
  · exact congrArg Host.Outcome.next (if_neg hresp)

end Sys2Proof.Machine
end

section
/-! SUPPORT. Quiet waits, requests going out, polls, and the bits on a tag line (R8, R11, R14, R91, R182). -/

namespace Sys2Proof.Machine

/-- Settles O42: a waiting request begins, a request going out stands, and any other line is marked quiet. -/
theorem quietWaitStartsTheRequest : Obligations.QuietWaitStartsTheRequest := by
  unfold Obligations.QuietWaitStartsTheRequest
  intro b s hpow
  have hquiet : exec (.quietWaitElapsed b) s = .next (s.modLine b LineUnit.quietElapsed) :=
    exec_of_powered (by simp) rfl hpow
  have lines {f : LineUnit → LineUnit} (h : s.lines[b].quietElapsed = f s.lines[b]) :
      exec (.quietWaitElapsed b) s = .next { s with lines := upd s.lines b f } := by
    rw [hquiet, State.modLine, upd_congr h]
  refine ⟨fun hreq hwait => ?_, fun hreq hsend => ?_, fun hreq => ?_, exec_of_powered (by simp) rfl hpow⟩
  · refine lines ?_
    rw [LineUnit.quietElapsed, if_pos hreq, if_neg (ne_true_of_eq_false hwait)]
  · rw [hquiet, State.modLine, upd_same]
    rw [LineUnit.quietElapsed, if_pos hreq, if_pos hsend]
  · refine lines ?_
    rw [LineUnit.quietElapsed, if_neg hreq]

/-- The request a transaction sends, by its phase and its command (R8, R182). -/
theorem transaction_request (t : Transaction) :
    let c := t.claim
    let form (code : Byte) (data : List Byte) : List Byte :=
      let body := code :: BitVec.ofNat 8 c.page :: BitVec.ofNat 8 c.offset :: BitVec.ofNat 8 c.length :: data
      body ++ [crc8 body]
    (t.phase = .first → c.command = .peek → t.request = form 0x11#8 []) ∧
    (t.phase = .first → c.command = .store → t.request = form 0x22#8 c.data) ∧
    (t.phase = .first → c.command = .prove → t.request = form 0x33#8 c.data) ∧
    (t.phase = .polling → t.request = form 0x44#8 []) := by
  refine ⟨fun hp hc => ?_, fun hp hc => ?_, fun hp hc => ?_, fun hp => ?_⟩
  all_goals unfold Transaction.request; rw [hp]
  · unfold Claim.request; rw [hc]; rfl
  · unfold Claim.request; rw [hc]; rfl
  · unfold Claim.request; rw [hc]; rfl
  · rfl

theorem output_of_silent {u : LineUnit} (h : u.sending = false ∨ u.current = none) : u.output = [] := by
  unfold LineUnit.output
  obtain h | h := h
  · rw [h]
  · rw [h]
    cases u.sending <;> rfl

theorem output_of_sending {u : LineUnit} {t : Transaction} (hs : u.sending = true) (ht : u.current = some t) :
    u.output = serialBits t.request := by
  unfold LineUnit.output
  rw [hs, ht]
  rfl

section
variable {b : Bay} {s : State}

theorem requestGone_of_going {t : Transaction} (hreq : s.lines[b].state = .request) (hsend : s.lines[b].sending = true)
    (hcur : s.lines[b].current = some t) : requestGone b s =
      if t.claim.claimant = .commit ∧ t.phase = .first ∧ t.claim.command = .store then
        commitStoreSent b (s.modLine b (LineUnit.requestSent t))
      else s.modLine b (LineUnit.requestSent t) := by
  unfold requestGone
  rw [hreq, hsend, hcur]

theorem requestGone_of_ignored
    (h : s.lines[b].state ≠ .request ∨ s.lines[b].sending = false ∨ s.lines[b].current = none) :
    requestGone b s = s := by
  unfold requestGone
  split
  · next hreq hsend hcur =>
    obtain h | h | h := h
    · exact absurd hreq h
    · rw [hsend] at h; cases h
    · rw [hcur] at h; cases h
  · rfl

/-- The line that has sent its request: a STORE's first request sets store-sent (R11). -/
theorem requestSent_line (t : Transaction) (u : LineUnit) : LineUnit.requestSent t u =
    { u with state := .awaitReply, sending := false, replyTimer := .running 2000,
             current := some { t with
               storeSent := t.storeSent || decide (t.phase = .first ∧ t.claim.command = .store) } } := by
  have hstore : (t.phase == .first && t.claim.command == .store) =
      decide (t.phase = .first ∧ t.claim.command = .store) := by
    rw [Bool.eq_iff_iff]
    simp
  unfold LineUnit.requestSent
  rw [hstore]
  rfl

theorem pollExpires_of_waiting (hwait : s.lines[b].state = .pollWait) (htimer : s.lines[b].pollTimer ≠ .stopped) :
    pollExpires b s = s.modLine b fun u =>
      { u with state := .request, sending := u.quiet, quiet := false, pollTimer := .stopped } := by
  unfold pollExpires
  cases ht : s.lines[b].pollTimer with
  | stopped => exact absurd ht htimer
  | running n =>
    rw [hwait]
    rfl

theorem pollExpires_of_ignored (h : s.lines[b].state ≠ .pollWait ∨ s.lines[b].pollTimer = .stopped) :
    pollExpires b s = s := by
  unfold pollExpires
  split
  · next hwait htimer =>
    obtain h | h := h
    · exact absurd hwait h
    · rw [htimer] at h; cases h
  · rfl

end

theorem commitStoreSent_of_storing {b : Bay} {s : State} (h : s.commits[b].state = .storing) :
    commitStoreSent b s = { s with commits := upd s.commits b fun c => { c with state := .polling } } := by
  have hupd : (upd s.commits b fun c => if c.state = .storing then { c with state := .polling } else c) =
      upd s.commits b fun c => { c with state := .polling } := upd_congr (if_pos h)
  unfold commitStoreSent State.modCommit
  rw [hupd]

theorem commitStoreSent_of_not_storing {b : Bay} {s : State} (h : s.commits[b].state ≠ .storing) :
    commitStoreSent b s = s := by
  have hupd : (upd s.commits b fun c => if c.state = .storing then { c with state := .polling } else c) = s.commits :=
    upd_same (if_neg h)
  unfold commitStoreSent State.modCommit
  rw [hupd]

/-- Settles O43: the request's bytes by phase and command, the bits of a line that sends, and the two events by the
states they arise in. -/
theorem requestSentAndPolled : Obligations.RequestSentAndPolled := by
  unfold Obligations.RequestSentAndPolled
  refine ⟨transaction_request, fun u => ⟨output_of_silent, fun t hs ht => ?bits⟩, fun b s hpow => ?events⟩
  case bits =>
    rw [output_of_sending hs ht]
    exact ⟨serialBits_length _, serialBits_byte _⟩
  case events =>
    have hgone : exec (.requestSent b) s = .next (requestGone b s) := exec_of_powered (by simp) rfl hpow
    have hpoll : exec (.pollTimerExpiry b) s = .next (pollExpires b s) := exec_of_powered (by simp) rfl hpow
    rw [hgone, hpoll]
    refine ⟨fun t hreq hsend hcur => ?_, fun h => congrArg _ (requestGone_of_ignored h),
      fun hwait htimer => congrArg _ (pollExpires_of_waiting hwait htimer),
      fun h => congrArg _ (pollExpires_of_ignored h)⟩
    have hline : s.modLine b (LineUnit.requestSent t) = { s with lines := upd s.lines b fun u =>
        { u with state := .awaitReply, sending := false, replyTimer := .running 2000,
                 current := some { t with
                   storeSent := t.storeSent || decide (t.phase = .first ∧ t.claim.command = .store) } } } := by
      rw [State.modLine, funext (requestSent_line t)]
    rw [requestGone_of_going hreq hsend hcur, hline]
    refine ⟨fun hstore hwho hstoring => ?_, fun hnot => ?_⟩
    · rw [if_pos ⟨hwho, hstore⟩]
      exact congrArg Host.Outcome.next (commitStoreSent_of_storing hstoring)
    · refine congrArg Host.Outcome.next ?_
      split
      · next h =>
        have hidle : s.commits[b].state ≠ .storing :=
          (hnot.resolve_left (not_not.mpr h.2)).resolve_left (not_not.mpr h.1)
        exact commitStoreSent_of_not_storing hidle
      · rfl

end Sys2Proof.Machine
end

section
/-! SUPPORT. The tag line's arbiter and the replies to its requests (R9, R12 to R16, R18). -/

namespace Sys2Proof.Machine

/-! ### The arbiter's choice (R18) -/

theorem PartState.startsLines_iff {p : PartState} : p.startsLines = true ↔ p ≠ .drain ∧ p ≠ .drained := by
  cases p <;> simp [PartState.startsLines]

/-- With nothing waiting the arbiter has no claim to choose. -/
theorem LineUnit.nextClaim_none {u : LineUnit} (h : u.waiting = ⟨none, none, none, none⟩) : u.nextClaim = none := by
  unfold LineUnit.nextClaim
  rw [h]

theorem LineUnit.nextClaim_admission {u : LineUnit} {c : Claim} (h : u.waiting.admission = some c) :
    u.nextClaim = some (c, { u.waiting with admission := none }, false) := by
  unfold LineUnit.nextClaim
  dsimp only
  rw [h]

theorem LineUnit.nextClaim_link {u : LineUnit} {c : Claim} (ha : u.waiting.admission = none)
    (hl : u.waiting.link = some c) (hturn : u.lastLink = false ∨ (u.waiting.mark = none ∧ u.waiting.commit = none)) :
    u.nextClaim = some (c, { u.waiting with link := none }, true) := by
  unfold LineUnit.nextClaim
  dsimp only
  rw [ha, hl]
  cases hm : u.waiting.mark <;> cases hk : u.waiting.commit <;> simp_all

theorem LineUnit.nextClaim_mark {u : LineUnit} {c : Claim} (ha : u.waiting.admission = none)
    (hl : u.waiting.link = none ∨ u.lastLink = true) (hm : u.waiting.mark = some c) :
    u.nextClaim = some (c, { u.waiting with mark := none }, false) := by
  unfold LineUnit.nextClaim
  dsimp only
  rw [ha, hm]
  cases hk : u.waiting.link <;> simp_all

theorem LineUnit.nextClaim_commit {u : LineUnit} {c : Claim} (ha : u.waiting.admission = none)
    (hl : u.waiting.link = none ∨ u.lastLink = true) (hm : u.waiting.mark = none) (hk : u.waiting.commit = some c) :
    u.nextClaim = some (c, { u.waiting with commit := none }, false) := by
  unfold LineUnit.nextClaim
  dsimp only
  rw [ha, hm, hk]
  cases hlink : u.waiting.link <;> simp_all

section
variable {b : Bay} {s : State}

theorem arbitrate_of_stopped (h : ¬(s.lines[b].state = .idle ∧ s.part ≠ .drain ∧ s.part ≠ .drained)) :
    arbitrate b s = s := by
  unfold arbitrate
  split
  · next hpart =>
    have hbusy : s.lines[b].state ≠ .idle := fun hidle => h ⟨hidle, PartState.startsLines_iff.mp hpart⟩
    have hsame : s.lines[b].arbitrate = s.lines[b] := by
      unfold LineUnit.arbitrate
      split
      · next hidle _ => exact absurd hidle hbusy
      · rfl
    rw [State.modLine, upd_same hsame]
  · rfl

theorem arbitrate_of_no_claim (h : s.lines[b].nextClaim = none) : arbitrate b s = s := by
  have hsame : s.lines[b].arbitrate = s.lines[b] := by
    unfold LineUnit.arbitrate
    rw [h]
    cases s.lines[b].state <;> rfl
  unfold arbitrate
  rw [State.modLine, upd_same hsame, ite_self]

theorem arbitrate_of_next {c : Claim} {w : Waiting} {flag : Bool}
    (hruns : s.lines[b].state = .idle ∧ s.part ≠ .drain ∧ s.part ≠ .drained)
    (h : s.lines[b].nextClaim = some (c, w, flag)) :
    arbitrate b s = { s with lines := upd s.lines b fun u =>
      { u with state := .request, waiting := w, lastLink := flag, sending := u.quiet, quiet := false,
               current := some { claim := c, phase := .first, isRepeat := false, retries := 0, storeSent := false,
                                 limitPassed := false } } } := by
  have hline : s.lines[b].arbitrate = LineUnit.serve c { s.lines[b] with waiting := w, lastLink := flag } := by
    unfold LineUnit.arbitrate
    split
    · next hnext =>
      rw [h] at hnext
      cases hnext
      rfl
    · next hno => exact absurd h (hno _ _ _ hruns.1)
  have hlines : upd s.lines b LineUnit.arbitrate =
      upd s.lines b fun u => LineUnit.serve c { u with waiting := w, lastLink := flag } := upd_congr hline
  unfold arbitrate
  rw [if_pos (PartState.startsLines_iff.mpr hruns.2), State.modLine, hlines]
  rfl

end

/-! ### The settle timer (R24, R28) -/

theorem settleExpires_of_running {b : Bay} {s : State} (hst : s.ctx[b].state = .settling)
    (hset : s.ctx[b].settle ≠ .stopped) : settleExpires b s = enterIdentifying b s := by
  unfold settleExpires
  rw [hst]
  cases h : s.ctx[b].settle with
  | stopped => exact absurd h hset
  | running n => rfl

theorem settleExpires_of_ignored {b : Bay} {s : State}
    (h : ¬(s.ctx[b].state = .settling ∧ s.ctx[b].settle ≠ .stopped)) : settleExpires b s = s := by
  unfold settleExpires
  split
  · next hst hset => exact absurd ⟨hst, by rw [hset]; nofun⟩ h
  · rfl

/-- Settles O18: the claim joins the waiting set, and an IDLE line's arbiter serves it. -/
theorem settleExpiryClaimsPageZero : Obligations.SettleExpiryClaimsPageZero := by
  unfold Obligations.SettleExpiryClaimsPageZero
  intro b s hpow
  have hexec : exec (.settleTimerExpiry b) s = .next (settleExpires b s) := exec_of_powered (by simp) rfl hpow
  rw [hexec]
  have joined (hruns : s.ctx[b].state = .settling ∧ s.ctx[b].settle ≠ .stopped) : settleExpires b s =
      arbitrate b { s with
        ctx := upd s.ctx b fun c => { c with state := .identifying, settle := .stopped, awaitLine := true }
        lines := upd s.lines b fun u => { u with waiting := { u.waiting with
          admission := some { claimant := .admission, command := .peek, page := 0, offset := 0, length := 32,
                              data := [] } } } } := by
    rw [settleExpires_of_running hruns.1 hruns.2]
    exact admissionClaim_peek (by simp [upd]) (by decide)
  refine ⟨fun hruns hstarts => ?_, fun hruns hstarts => ?_, fun hruns => ?_⟩
  · rw [joined hruns, arbitrate_of_next (by simpa [upd] using hstarts) (LineUnit.nextClaim_admission (by simp [upd]; rfl)),
      upd_upd]
    simp [upd]
  · rw [joined hruns, arbitrate_of_stopped (by simpa [upd] using hstarts)]
  · rw [settleExpires_of_ignored hruns]

/-! ### The end of a transaction (R16) -/

theorem endTransaction_eq (b : Bay) (c : Claim) (o : LineOutcome) (s : State) :
    endTransaction b c o s = arbitrate b
      ((handOutcome b c o (reportOutcome b c.claimant o (s.modLine b LineUnit.clear))).modLine b
        fun u => { u with state := .idle }) := rfl

/-- Settles O47: R16's steps in order, and the arbiter's choice case by case. -/
theorem transactionEndsAndTheLineIsArbitrated : Obligations.TransactionEndsAndTheLineIsArbitrated := by
  unfold Obligations.TransactionEndsAndTheLineIsArbitrated
  refine ⟨fun b c o s => ?_, fun b s => ⟨fun hstill => ?_, fun hruns => ⟨fun c ha => ?_, fun c ha hl hturn => ?_,
    fun c ha hl hm => ?_, fun c ha hl hm hk => ?_⟩⟩⟩
  · rw [endTransaction_eq]
    cases o <;> rfl
  · exact hstill.elim arbitrate_of_stopped fun hw => arbitrate_of_no_claim (LineUnit.nextClaim_none hw)
  · exact arbitrate_of_next hruns (LineUnit.nextClaim_admission ha)
  · exact arbitrate_of_next hruns (LineUnit.nextClaim_link ha hl hturn)
  · exact arbitrate_of_next hruns (LineUnit.nextClaim_mark ha hl hm)
  · exact arbitrate_of_next hruns (LineUnit.nextClaim_commit ha hl hm hk)

end Sys2Proof.Machine
end

section
/-! SUPPORT. The idle-flush timer (R83), and the replies and timeouts of a tag line's transaction (R9, R12 to R15). -/

namespace Sys2Proof.Machine

/-! ### The idle-flush timer (R83) -/

theorem judge_of_due {b : Bay} {e : EntryIx} {s : State} (h : commitDue s b = some e) : judge b s = commitStart b e s := by
  unfold judge
  rw [h]

theorem judge_of_not_due {b : Bay} {s : State} (h : commitDue s b = none) : judge b s = s := by
  unfold judge
  rw [h]

theorem flushElapsed_of_running {b : Bay} {n : Nat} {s : State} (h : s.commits[b].flush = .running n) :
    flushElapsed b s = judge b (s.modCommit b fun c => { c with flush := .elapsed }) := by
  unfold flushElapsed
  rw [h]

theorem flushElapsed_of_ignored {b : Bay} {s : State} (h : ∀ n : Nat, s.commits[b].flush ≠ .running n) :
    flushElapsed b s = s := by
  unfold flushElapsed
  split
  · next n hrun => exact absurd hrun (h n)
  · rfl

/-- Settles O21: a running timer becomes elapsed and the commit is judged on it. -/
theorem idleFlushElapsesAndJudges : Obligations.IdleFlushElapsesAndJudges := by
  unfold Obligations.IdleFlushElapsesAndJudges
  intro b s hpow
  have hexec : exec (.idleFlushExpiry b) s = .next (finish (flushElapsed b s)) := exec_of_powered (by simp) rfl hpow
  rw [hexec]
  refine ⟨fun n hrun hdue => ?_, fun n e hrun hdue => ?_, fun hidle => ?_⟩
  · rw [flushElapsed_of_running hrun]
    exact congrArg (fun u => Host.Outcome.next (finish u)) (judge_of_not_due hdue)
  · rw [flushElapsed_of_running hrun]
    exact congrArg (fun u => Host.Outcome.next (finish u)) (judge_of_due hdue)
  · rw [flushElapsed_of_ignored hidle]

/-! ### Classes of replies (R9) -/

section
variable {t : Transaction}

theorem acceptData_eq : acceptData t = if t.phase = .first then (if t.claim.command = .peek then t.claim.length else 0)
    else if t.claim.command = .prove then 17 else 1 := by
  unfold acceptData
  cases t.phase <;> cases t.claim.command <;> rfl

theorem classify_of_bad_stop (bytes : List Byte) : classify t { bytes := bytes, stopBitsGood := false } = .garbled := by
  unfold classify
  cases bytes <;> rfl

/-- A reply whose CRC byte is missing or wrong is garbled. -/
theorem classify_of_bad_crc {st : Byte} {rest : List Byte} {n : Nat} (hn : (if st = 0x60#8 then acceptData t else 0) = n)
    (h : (rest.drop n).head? ≠ some (crc8 (st :: rest.take n))) :
    classify t { bytes := st :: rest, stopBitsGood := true } = .garbled := by
  unfold classify
  dsimp only
  rw [hn, if_neg (by simp), if_pos h]

/-- The class of a reply with a good CRC behind the data its status calls for, by its status. A WAIT counts in POLLING,
and in answer to a repeated STORE or PROVE. -/
theorem classify_of_good {st : Byte} {d extra : List Byte} (hn : (if st = 0x60#8 then acceptData t else 0) = d.length) :
    classify t { bytes := (st :: d) ++ [crc8 (st :: d)] ++ extra, stopBitsGood := true } =
      if st = 0x60#8 then .accept d
      else if st = 0x61#8 then
        if t.phase = .polling ∨ (t.isRepeat = true ∧ (t.claim.command = .store ∨ t.claim.command = .prove)) then .wait
        else .garbled
      else if st = 0x63#8 then .denied
      else .garbled := by
  have htake : (d ++ ([crc8 (st :: d)] ++ extra)).take d.length = d := List.take_left ..
  have hdrop : (d ++ ([crc8 (st :: d)] ++ extra)).drop d.length = [crc8 (st :: d)] ++ extra := List.drop_left ..
  have hbytes : (st :: d) ++ [crc8 (st :: d)] ++ extra = st :: (d ++ ([crc8 (st :: d)] ++ extra)) := by simp
  rw [hbytes]
  unfold classify
  dsimp only
  rw [hn, htake, hdrop, if_neg (by simp), if_neg (by simp)]
  cases t.phase <;> cases t.claim.command <;> cases t.isRepeat <;> rfl

/-- A status other than the four of R9 is garbled, whatever follows it. -/
theorem classify_of_unknown {st : Byte} (rest : List Byte) (h0 : st ≠ 0x60#8) (h1 : st ≠ 0x61#8) (h3 : st ≠ 0x63#8) :
    classify t { bytes := st :: rest, stopBitsGood := true } = .garbled := by
  unfold classify
  dsimp only
  rw [if_neg (by simp), if_neg h0, if_neg h0, if_neg h1, if_neg h3, ite_self]

end

/-- Settles O44: the data a status calls for, then the CRC, then the status itself. -/
theorem repliesClassedByTheirBytes : Obligations.RepliesClassedByTheirBytes := by
  unfold Obligations.RepliesClassedByTheirBytes
  intro t st d extra
  dsimp only
  rw [← acceptData_eq]
  have bare (hst : st ≠ 0x60#8) (hd : d = []) : (if st = 0x60#8 then acceptData t else 0) = d.length := by
    rw [if_neg hst, hd, List.length_nil]
  refine ⟨fun hst hlen => ?_, fun hst hd => ?_, fun hst hd => ?_, fun hst hd => ?_, fun h0 h1 _ h3 => ?_,
    classify_of_bad_stop, fun x hx hlen => ?_, fun hst hlen => ?_, ?_⟩
  · rw [classify_of_good (by rw [if_pos hst, hlen]), if_pos hst]
  · rw [classify_of_good (bare (by rw [hst]; decide) hd), hst]
    rfl
  · rw [classify_of_good (bare (by rw [hst]; decide) hd), hst]
    rfl
  · rw [classify_of_good (bare (by rw [hst]; decide) hd), hst]
    rfl
  · exact classify_of_unknown _ h0 h1 h3
  · have hn : (if st = 0x60#8 then acceptData t else 0) = d.length := by
      split
      · next hst => rw [if_pos hst] at hlen; exact hlen.symm
      · next hst => rw [if_neg hst] at hlen; rw [hlen, List.length_nil]
    refine classify_of_bad_crc (rest := d ++ x :: extra) hn ?_
    rw [List.take_left, List.drop_left]
    simpa using hx
  · refine classify_of_bad_crc (n := acceptData t) (if_pos hst) ?_
    rw [List.drop_eq_nil_of_le hlen]
    nofun
  · exact classify_of_bad_crc rfl (by rw [List.drop_nil]; nofun)

/-! ### A reply, a failure, a poll (R12 to R15) -/

/-- What a line does after bytes have been heard on it. -/
theorem modLine_lineHeard (b : Bay) (f : LineUnit → LineUnit) (s : State) : (lineHeard b s).modLine b f =
    { s with lines := upd s.lines b fun u => f { u with quiet := false } } := by
  unfold lineHeard State.modLine
  dsimp only
  rw [upd_upd]

theorem startPolling_line (t : Transaction) (u : LineUnit) : LineUnit.startPolling t u =
    { u with state := .pollWait, replyTimer := .stopped, pollTimer := .running 1000,
             limitTimer := .running (if t.claim.command = .prove then 10000 else 25000),
             current := some { t with phase := .polling, isRepeat := false } } := by
  have hlimit : completionLimit t.claim.command = if t.claim.command = .prove then 10000 else 25000 := by
    cases t.claim.command <;> rfl
  rw [← hlimit]
  rfl

section
variable {b : Bay} {t : Transaction} {second : LineOutcome} {s : State}

theorem requestFailed_of_first (hret : t.retries = 0) (hlim : t.limitPassed = false) : requestFailed b t second s =
    s.modLine b fun u => { u with state := .request, replyTimer := .stopped, sending := u.quiet, quiet := false,
                                  current := some { t with retries := 1, isRepeat := true } } := by
  unfold requestFailed
  rw [if_pos hret, if_neg (ne_true_of_eq_false hlim)]
  rfl

theorem requestFailed_of_past_limit (hret : t.retries = 0) (hlim : t.limitPassed = true) :
    requestFailed b t second s = endTransaction b t.claim .programFailed s := by
  unfold requestFailed
  rw [if_pos hret, if_pos hlim]

theorem requestFailed_of_second (hret : t.retries ≠ 0) :
    requestFailed b t second s = endTransaction b t.claim second s := by
  unfold requestFailed
  rw [if_neg hret]

theorem replyArrives_of_not_awaited {a : TagAnswer} (h : s.lines[b].state ≠ .awaitReply) :
    replyArrives b a s = lineHeard b s := by
  unfold replyArrives
  dsimp only
  split
  · next hawait _ => exact absurd hawait h
  · rfl

theorem replyArrives_of_first {a : TagAnswer} (h : s.lines[b].state = .awaitReply) (hcur : s.lines[b].current = some t)
    (hphase : t.phase = .first) : replyArrives b a s = firstReply b t (classify t a) (lineHeard b s) := by
  unfold replyArrives
  dsimp only
  rw [h, hcur]
  dsimp only
  rw [hphase]

theorem replyArrives_of_polling {a : TagAnswer} (h : s.lines[b].state = .awaitReply)
    (hcur : s.lines[b].current = some t) (hphase : t.phase = .polling) :
    replyArrives b a s = pollReply b t (classify t a) (lineHeard b s) := by
  unfold replyArrives
  dsimp only
  rw [h, hcur]
  dsimp only
  rw [hphase]

/-- A reply that ends the transaction, or fails it, does so in either phase. -/
theorem replyArrives_of_denied {a : TagAnswer} (h : s.lines[b].state = .awaitReply) (hcur : s.lines[b].current = some t)
    (hclass : classify t a = .denied) : replyArrives b a s = endTransaction b t.claim .denied (lineHeard b s) := by
  cases hphase : t.phase
  · rw [replyArrives_of_first h hcur hphase, hclass, firstReply]
  · rw [replyArrives_of_polling h hcur hphase, hclass, pollReply]

theorem replyArrives_of_garbled {a : TagAnswer} (h : s.lines[b].state = .awaitReply) (hcur : s.lines[b].current = some t)
    (hclass : classify t a = .garbled) : replyArrives b a s = requestFailed b t .garbled (lineHeard b s) := by
  cases hphase : t.phase
  · rw [replyArrives_of_first h hcur hphase, hclass, firstReply]
  · rw [replyArrives_of_polling h hcur hphase, hclass, pollReply]

theorem replyMissing_of_not_awaited {begun : Bool} (h : s.lines[b].state ≠ .awaitReply) : replyMissing b begun s = s := by
  unfold replyMissing
  dsimp only
  split
  · next hawait _ => exact absurd hawait h
  · rfl

theorem replyMissing_of_awaited {begun : Bool} (h : s.lines[b].state = .awaitReply) (hcur : s.lines[b].current = some t) :
    replyMissing b begun s =
      requestFailed b t (if begun then .garbled else .silent) (if begun then lineHeard b s else s) := by
  unfold replyMissing
  dsimp only
  rw [h, hcur]

theorem limitExpires_of_running (hrun : s.lines[b].limitTimer ≠ .stopped) (hcur : s.lines[b].current = some t) :
    limitExpires b s = if s.lines[b].state = .pollWait then endTransaction b t.claim .programFailed s
      else s.modLine b fun u => { u with limitTimer := .stopped, current := some { t with limitPassed := true } } := by
  unfold limitExpires
  rw [hcur]
  cases ht : s.lines[b].limitTimer with
  | stopped => exact absurd ht hrun
  | running n => rfl

theorem limitExpires_of_ignored (h : s.lines[b].limitTimer = .stopped ∨ s.lines[b].current = none) :
    limitExpires b s = s := by
  unfold limitExpires
  split
  · next hrun hcur =>
    obtain h | h := h
    · rw [hrun] at h; cases h
    · rw [hcur] at h; cases h
  · rfl

end

/-- Settles O45: each class of reply in each phase. -/
theorem tagReplyMovesTheTransaction : Obligations.TagReplyMovesTheTransaction := by
  unfold Obligations.TagReplyMovesTheTransaction
  intro b a s hpow hbytes
  have hexec : exec (.tagReply b a) s = .next (finish (replyArrives b a s)) :=
    exec_of_powered (by simp) (by simpa [Instr.wellFormed] using hbytes) hpow
  have does {t : State} (h : replyArrives b a s = t) : exec (.tagReply b a) s = .next (finish t) := by rw [hexec, h]
  refine ⟨fun hother => does (replyArrives_of_not_awaited hother), fun t hawait hcur => ?_⟩
  have first (h : t.phase = .first) := replyArrives_of_first (a := a) hawait hcur h
  have polling (h : t.phase = .polling) := replyArrives_of_polling (a := a) hawait hcur h
  have polls : (lineHeard b s).modLine b (LineUnit.startPolling t) = _ :=
    (modLine_lineHeard b _ s).trans (congrArg (fun f => { s with lines := upd s.lines b f })
      (funext fun u => startPolling_line t { u with quiet := false }))
  refine ⟨fun d hclass => ⟨fun hp hpeek => does ?_, fun hp hpeek => does ?_, fun hp hd => does ?_, fun hp hd => does ?_⟩,
    fun hclass => ⟨fun hp => does ?_, fun hp hlim => does ?_, fun hp hlim => does ?_⟩,
    fun hclass => does (replyArrives_of_denied hawait hcur hclass),
    fun hclass => ⟨fun hret hlim => does ?_, fun hret hlim => does ?_, fun hret => does ?_⟩⟩
  · rw [first hp, hclass, firstReply, if_pos hpeek]
    rfl
  · rw [first hp, hclass, firstReply, if_neg hpeek]
    exact polls
  · rw [polling hp, hclass, pollReply, if_pos hd]
    rfl
  · rw [polling hp, hclass, pollReply, if_neg hd]
    rfl
  · rw [first hp, hclass, firstReply]
    exact polls
  · rw [polling hp, hclass, pollReply, if_pos hlim]
    rfl
  · rw [polling hp, hclass, pollReply, if_neg (ne_true_of_eq_false hlim)]
    exact modLine_lineHeard b _ s
  · rw [replyArrives_of_garbled hawait hcur hclass, requestFailed_of_first hret hlim]
    exact modLine_lineHeard b _ s
  · rw [replyArrives_of_garbled hawait hcur hclass, requestFailed_of_past_limit hret hlim]
    rfl
  · rw [replyArrives_of_garbled hawait hcur hclass, requestFailed_of_second hret]
    rfl

/-- Settles O46: a timeout is the failure of a request, and a limit that passes ends a POLL_WAIT. -/
theorem timeoutsRetryOrEndTheTransaction : Obligations.TimeoutsRetryOrEndTheTransaction := by
  unfold Obligations.TimeoutsRetryOrEndTheTransaction
  intro b s hpow
  have hlimit : exec (.completionLimitExpiry b) s = .next (finish (limitExpires b s)) :=
    exec_of_powered (by simp) rfl hpow
  refine ⟨fun begun => ?_, fun t hrun hcur => ⟨fun hwait => ?_, fun hwait => ?_⟩, fun h => ?_⟩
  · have hexec : exec (.replyTimeout b begun) s = .next (finish (replyMissing b begun s)) :=
      exec_of_powered (by simp) rfl hpow
    rw [hexec]
    refine ⟨fun hother => by rw [replyMissing_of_not_awaited hother], fun t hawait hcur => ?_⟩
    rw [replyMissing_of_awaited hawait hcur]
    refine ⟨fun hret hlim => ?_, fun hret hlim => ?_, fun hret => ?_⟩
    · rw [requestFailed_of_first hret hlim]
      cases begun
      · simp only [Bool.not_false, Bool.and_true]
        rfl
      · rw [if_pos rfl, modLine_lineHeard]
        simp only [Bool.not_true, Bool.and_false]
    · rw [requestFailed_of_past_limit hret hlim]
      rfl
    · rw [requestFailed_of_second hret]
      rfl
  · rw [hlimit, limitExpires_of_running hrun hcur, if_pos hwait]
  · rw [hlimit, limitExpires_of_running hrun hcur, if_neg hwait]
    rfl
  · rw [hlimit, limitExpires_of_ignored h]

end Sys2Proof.Machine
end

section
/-! SUPPORT. The registry writer's choice, its array's report, and the restart (R114 to R116, R174, R175). -/

namespace Sys2Proof.Machine

/-! ### The writer's order (R114) -/

/-- An entry's distance behind the writer's position, going up and around. -/
def Registry.distance (r : Registry) (e : EntryIx) : Nat := (e.val + 47 - r.position.val) % 48

theorem Registry.distance_above {r : Registry} {e : EntryIx} (h : r.position.val < e.val) :
    r.distance e = e.val - r.position.val - 1 := by
  unfold Registry.distance
  omega

theorem Registry.distance_below {r : Registry} {e : EntryIx} (h : e.val ≤ r.position.val) :
    r.distance e = e.val + 47 - r.position.val := by
  unfold Registry.distance
  omega

/-- The writer's order is the order of the distances. -/
theorem Registry.turn_ordered (r : Registry) : r.turn.Pairwise fun e f => r.distance e < r.distance f := by
  have sorted : allEntries.Pairwise fun e f => e.val < f.val := List.pairwise_lt_finRange 48
  have above {e : EntryIx} (h : e ∈ allEntries.filter fun e => decide (r.position < e)) : r.position.val < e.val :=
    of_decide_eq_true (List.mem_filter.mp h).2
  have below {e : EntryIx} (h : e ∈ allEntries.filter fun e => decide (e ≤ r.position)) : e.val ≤ r.position.val :=
    of_decide_eq_true (p := e ≤ r.position) (List.mem_filter.mp h).2
  unfold Registry.turn
  refine List.pairwise_append.mpr ⟨?_, ?_, fun e he f hf => ?_⟩
  · refine (sorted.filter _).imp_of_mem fun {e f} he hf hlt => ?_
    have he := above he
    rw [Registry.distance_above he, Registry.distance_above (above hf)]
    omega
  · refine (sorted.filter _).imp_of_mem fun {e f} he hf hlt => ?_
    rw [Registry.distance_below (below he), Registry.distance_below (below hf)]
    omega
  · have he := above he
    rw [Registry.distance_above he, Registry.distance_below (below hf)]
    omega

theorem Registry.mem_turn (r : Registry) (e : EntryIx) : e ∈ r.turn := by
  unfold Registry.turn
  simp only [List.mem_append, List.mem_filter, mem_allEntries, true_and, decide_eq_true_eq]
  exact lt_or_ge r.position e

/-- The dirty entry nearest behind the position is the one found. -/
theorem Registry.nextDirty_of_nearest {r : Registry} {e : EntryIx} (hdirty : r.entries[e].dirty = true)
    (hnear : ∀ f : EntryIx, r.entries[f].dirty = true → r.distance e ≤ r.distance f) : r.nextDirty = some e := by
  obtain ⟨before, after, hturn⟩ := List.append_of_mem (r.mem_turn e)
  refine List.find?_eq_some_iff_append.mpr ⟨hdirty, before, after, hturn, fun f hf => ?_⟩
  have hlt : r.distance f < r.distance e := by
    have hordered := r.turn_ordered
    rw [hturn, List.pairwise_append] at hordered
    exact hordered.2.2 f hf e (List.mem_cons_self ..)
  rw [Bool.not_eq_true', Bool.eq_false_iff]
  intro hf
  have := hnear f hf
  omega

theorem Registry.nextDirty_none {r : Registry} (h : ∀ e : EntryIx, r.entries[e].dirty = false) : r.nextDirty = none :=
  List.find?_eq_none.mpr fun e _ => ne_true_of_eq_false (h e)

/-! ### The choice and the write it starts -/

theorem Registry.choose_header {r : Registry} (h : r.header.dirty = true) : r.choose true = some .header :=
  if_pos (by rw [h]; rfl)

theorem Registry.choose_of_dirty {r : Registry} {a : Bool} {e : EntryIx} (h : ¬(r.header.dirty = true ∧ a = true))
    (he : r.nextDirty = some e) : r.choose a = some (.entry e) := by
  unfold Registry.choose
  rw [if_neg (by rwa [Bool.and_eq_true]), he]

theorem Registry.choose_of_clean {r : Registry} {a : Bool} (h : ¬(r.header.dirty = true ∧ a = true))
    (he : r.nextDirty = none) : r.choose a = if r.header.dirty then some .header else none := by
  unfold Registry.choose
  rw [if_neg (by rwa [Bool.and_eq_true]), he]

section
variable {s : State} {a : Bool}

theorem PartState.writes_iff {p : PartState} : p.writes = true ↔ p = .ready ∨ p = .drain := by
  cases p <;> simp [PartState.writes]

theorem writerTurn_of_idle
    (h : (s.part ≠ .ready ∧ s.part ≠ .drain) ∨ s.registry.write ≠ none ∨ s.registry.choose a = none) :
    writerTurn a s = s := by
  unfold writerTurn
  split
  · next hruns =>
    rw [Bool.and_eq_true, PartState.writes_iff, Option.isNone_iff_eq_none] at hruns
    obtain h | h | h := h
    · exact absurd hruns.1 (not_or.mpr h)
    · exact absurd hruns.2 h
    · rw [h]
  · rfl

theorem writerTurn_of_choice {t : WriteTarget} (hpart : s.part = .ready ∨ s.part = .drain)
    (hwrite : s.registry.write = none) (hchoice : s.registry.choose a = some t) :
    writerTurn a s = { s with registry := s.registry.startWrite t } := by
  unfold writerTurn
  rw [if_pos (by rw [Bool.and_eq_true, PartState.writes_iff, Option.isNone_iff_eq_none]; exact ⟨hpart, hwrite⟩), hchoice]

end

/-- Settles O14: the writer's order, its turn, and the entry to DRAINED. -/
theorem writerChoosesAndDrainEnds : Obligations.WriterChoosesAndDrainEnds := by
  unfold Obligations.WriterChoosesAndDrainEnds
  refine ⟨fun r a => ⟨fun hdirty ha => ?_, fun hskip => ⟨fun e hdirty hnear => ?_, fun hclean => ?_⟩⟩,
    fun s a => ⟨writerTurn_of_idle, fun hpart hwrite => ⟨fun e hchoice => ?_, fun hchoice => ?_⟩⟩,
    fun s => ⟨fun hnot => ?_, fun hpart hsaved => ?_⟩⟩
  · rw [ha, Registry.choose_header hdirty]
  · exact Registry.choose_of_dirty hskip (Registry.nextDirty_of_nearest hdirty hnear)
  · exact Registry.choose_of_clean hskip (Registry.nextDirty_none hclean)
  · exact writerTurn_of_choice hpart hwrite hchoice
  · exact writerTurn_of_choice hpart hwrite hchoice
  · exact finish_of_not_done fun hdone => hnot.elim (· hdone.1) (· hdone.2)
  · rw [finish_of_done hpart hsaved, enterDrained]

/-! ### The array's report (R115, R116) -/

theorem writeEnds_of_write {ok : Bool} {w : Snapshot} {s : State} (h : s.registry.write = some w) :
    writeEnds ok s = finish (writerTurn w.ofEntry (writeReported ok w s)) := by
  unfold writeEnds
  rw [h]

/-- Settles O15: a report of either kind on either snapshot. -/
theorem registryWriteReported : Obligations.RegistryWriteReported := by
  unfold Obligations.RegistryWriteReported
  intro s hpow
  have hexec (ok : Bool) : exec (.registryWriteComplete ok) s = .next (writeEnds ok s) :=
    exec_of_powered (by simp) rfl hpow
  have tears {α : Type} (old torn : α) : (if Config.failedWriteTears s.freeCount = true then torn else old) = old ∨
      (if Config.failedWriteTears s.freeCount = true then torn else old) = torn := by
    split
    · exact .inr rfl
    · exact .inl rfl
  refine ⟨fun ok hnone => ?_, fun e v c hwrite => ?_, fun q w c hwrite => ?_⟩
  · rw [hexec, writeEnds, hnone]
  · rw [hexec, hexec, writeEnds_of_write hwrite, writeEnds_of_write hwrite]
    refine ⟨rfl, if Config.failedWriteTears s.freeCount = true then .torn else s.array.slots[e], tears _ _, ?_⟩
    have hslots : (upd s.array.slots e fun old => if Config.failedWriteTears s.freeCount = true then .torn else old) =
        upd s.array.slots e fun _ => if Config.failedWriteTears s.freeCount = true then .torn else s.array.slots[e] :=
      upd_congr rfl
    rw [← hslots]
    rfl
  · rw [hexec, hexec, writeEnds_of_write hwrite, writeEnds_of_write hwrite]
    exact ⟨rfl, if Config.failedWriteTears s.freeCount = true then .torn else s.array.header, tears _ _, rfl⟩

/-! ### SUPPLY_FAIL outside READY (R172, R175) -/

/-- Settles O12: the levels move, and the restart is a reset that keeps what R175 lists. -/
theorem supplyFailElsewhereAndReturn : Obligations.SupplyFailElsewhereAndReturn := by
  unfold Obligations.SupplyFailElsewhereAndReturn
  refine ⟨fun s hpow hpart => ?_, fun s hpow hpart => ?_, fun s hpow hpart => ?_⟩
  · rw [exec_of_powered (by decide) rfl hpow]
    exact congrArg Host.Outcome.next (if_neg hpart)
  · rw [exec_of_powered (by decide) rfl hpow]
    exact congrArg Host.Outcome.next (if_neg hpart)
  · have hrestart : exec .supplyFailDeasserted s = .next (restart (s.modPins fun p => { p with supplyFail := false })) := by
      rw [exec_of_powered (by decide) rfl hpow]
      exact congrArg Host.Outcome.next (if_pos hpart)
    refine ⟨cutLinkWrite s, s.fire.restart.returned, ?_, fun f hserved => ?_, fun hnone => ?_, fun hnone => ?_,
      fun l hserved => ?_⟩
    · rw [hrestart]
      have hfire : s.fire.restart = { service := none, waiting := [], returned := s.fire.restart.returned } := by
        unfold FirePort.restart
        split <;> rfl
      unfold restart
      dsimp only [modPins_powered, modPins_pins, modPins_array, modPins_notices, modPins_fire, modPins_freeCount,
        modPins_pending]
      rw [hpow, hfire]
      rfl
    · rw [FirePort.restart, hserved]
    · rw [FirePort.restart, hnone]
    · rw [cutLinkWrite, hnone]
    · rw [cutLinkWrite, hserved]
      exact ⟨_, Nat.le_of_lt_succ (Nat.mod_lt _ (Nat.succ_pos _)), rfl⟩

end Sys2Proof.Machine
end

section
/-! SUPPORT. The power-on load of the registry, and the entry to READY (R117, R169). -/

namespace Sys2Proof.Machine

/-! ### What a stored slot is taken for (R117) -/

section
variable {a : StoredArray} {un : List EntryIx}

theorem slotMatches_iff {e : EntryIx} {v : Saved} : slotMatches a un e = some v ↔
    e ∉ un ∧ a.slots[e] = .stored v (entryCheck e v) ∧ v.valid = true := by
  unfold slotMatches
  cases hslot : a.slots[e] with
  | erased => simp
  | torn => simp
  | stored w c =>
    simp only [Option.ite_none_right_eq_some, Bool.and_eq_true, beq_iff_eq, Bool.not_eq_true', List.contains_eq_mem,
      decide_eq_false_iff_not, Option.some.injEq, StoredSlot.stored.injEq]
    constructor
    · rintro ⟨⟨⟨hvalid, hcheck⟩, hread⟩, rfl⟩
      exact ⟨hread, ⟨rfl, hcheck⟩, hvalid⟩
    · rintro ⟨hread, ⟨rfl, hcheck⟩, hvalid⟩
      exact ⟨⟨⟨hvalid, hcheck⟩, hread⟩, rfl⟩

theorem slotTorn_iff {e : EntryIx} : slotTorn a un e = true ↔ e ∈ un ∨ a.slots[e] = .torn ∨
    ∃ v c, a.slots[e] = .stored v c ∧ v.valid = true ∧ c ≠ entryCheck e v := by
  unfold slotTorn
  rw [Bool.or_eq_true, List.contains_eq_mem, decide_eq_true_eq]
  cases hslot : a.slots[e] <;> simp

theorem slotBeaten_iff {e : EntryIx} {v : Saved} : slotBeaten a un e v = true ↔
    ∃ f w, slotMatches a un f = some w ∧ f ≠ e ∧ w.serial = v.serial ∧
      (v.lastSeen < w.lastSeen ∨ (v.lastSeen = w.lastSeen ∧ f < e)) := by
  unfold slotBeaten
  simp only [List.any_eq_true, mem_allEntries, true_and]
  refine exists_congr fun f => ?_
  cases hm : slotMatches a un f <;> simp [and_assoc]

theorem slotKept_iff {e : EntryIx} {v : Saved} : slotKept a un e = some v ↔
    slotMatches a un e = some v ∧ slotBeaten a un e v = false := by
  unfold slotKept
  cases hm : slotMatches a un e with
  | none => simp
  | some w =>
    simp only [Option.ite_none_left_eq_some, Option.some.injEq, Bool.not_eq_true]
    constructor
    · rintro ⟨hkept, rfl⟩
      exact ⟨rfl, hkept⟩
    · rintro ⟨rfl, hkept⟩
      exact ⟨hkept, rfl⟩

/-- A matching slot is not torn. -/
theorem slotTorn_of_match {e : EntryIx} {v : Saved} (h : slotMatches a un e = some v) : slotTorn a un e = false := by
  obtain ⟨hread, hslot, -⟩ := slotMatches_iff.mp h
  rw [Bool.eq_false_iff, Ne, slotTorn_iff, hslot]
  rintro (hun | htorn | ⟨w, c, hstored, -, hcheck⟩)
  · exact hread hun
  · cases htorn
  · cases hstored
    exact hcheck rfl

theorem slotDiscarded_of_torn {e : EntryIx} (h : slotTorn a un e = true) : slotDiscarded a un e = true := by
  unfold slotDiscarded
  rw [h, Bool.true_or]

theorem slotDiscarded_of_beaten {e : EntryIx} {v : Saved} (hm : slotMatches a un e = some v)
    (hk : slotKept a un e = none) : slotDiscarded a un e = true := by
  unfold slotDiscarded
  rw [hm, hk]
  exact Bool.or_true _

theorem slotDiscarded_of_unmatched {e : EntryIx} (hm : slotMatches a un e = none) :
    slotDiscarded a un e = slotTorn a un e := by
  unfold slotDiscarded
  rw [hm]
  exact Bool.or_false _

theorem slotDiscarded_of_kept {e : EntryIx} {v : Saved} (hk : slotKept a un e = some v) : slotDiscarded a un e = false := by
  have hm := (slotKept_iff.mp hk).1
  unfold slotDiscarded
  rw [slotTorn_of_match hm, hm, hk]
  rfl

/-! ### The working entry -/

theorem loadEntry_of_kept {e : EntryIx} {v : Saved} (h : slotKept a un e = some v) :
    loadEntry a un e = { saved := v, check := entryCheck e v, inBay := none, dirty := false, commits := 0 } := by
  unfold loadEntry
  rw [h]
  rfl

theorem loadEntry_of_not_kept {e : EntryIx} (h : slotKept a un e = none) :
    loadEntry a un e = { Entry.blank with dirty := slotDiscarded a un e } := by
  unfold loadEntry
  rw [h]

theorem loadEntry_dirty (e : EntryIx) : (loadEntry a un e).dirty = slotDiscarded a un e := by
  cases hk : slotKept a un e with
  | none => rw [loadEntry_of_not_kept hk]
  | some v => rw [loadEntry_of_kept hk, slotDiscarded_of_kept hk]

/-- A valid working entry is a kept slot's. -/
theorem slotKept_of_valid {e : EntryIx} (h : (loadEntry a un e).saved.valid = true) :
    slotKept a un e = some (loadEntry a un e).saved := by
  cases hk : slotKept a un e with
  | none =>
    rw [loadEntry_of_not_kept hk] at h
    cases h
  | some v => rw [loadEntry_of_kept hk]

theorem loadEntry_valid_of_kept {e : EntryIx} {v : Saved} (hk : slotKept a un e = some v) :
    (loadEntry a un e).saved = v ∧ (loadEntry a un e).saved.valid = true := by
  rw [loadEntry_of_kept hk]
  exact ⟨rfl, (slotMatches_iff.mp (slotKept_iff.mp hk).1).2.2⟩

/-- Of two matching slots of one serial at most one is kept. -/
theorem kept_unique {e f : EntryIx} {v w : Saved} (he : slotKept a un e = some v) (hf : slotKept a un f = some w)
    (hserial : v.serial = w.serial) : e = f := by
  obtain ⟨hme, hbe⟩ := slotKept_iff.mp he
  obtain ⟨hmf, hbf⟩ := slotKept_iff.mp hf
  by_contra hne
  rw [Bool.eq_false_iff, Ne, slotBeaten_iff] at hbe hbf
  have he_wins : ¬(v.lastSeen < w.lastSeen ∨ (v.lastSeen = w.lastSeen ∧ f < e)) :=
    fun h => hbe ⟨f, w, hmf, Ne.symm hne, hserial.symm, h⟩
  have hf_wins : ¬(w.lastSeen < v.lastSeen ∨ (w.lastSeen = v.lastSeen ∧ e < f)) :=
    fun h => hbf ⟨e, v, hme, hne, hserial, h⟩
  obtain hlt | heq | hgt := lt_trichotomy v.lastSeen w.lastSeen
  · exact he_wins (.inl hlt)
  · obtain hlt | hgt := lt_or_gt_of_ne hne
    · exact hf_wins (.inr ⟨heq.symm, hlt⟩)
    · exact he_wins (.inr ⟨heq, hgt⟩)
  · exact hf_wins (.inl hgt)

/-! ### The greatest last seen, and the header -/

/-- The greatest last seen is the least bound of what the kept slots hold. -/
theorem greatestSeen_le {m : Nat} : greatestSeen a un ≤ m ↔
    ∀ (e : EntryIx) (v : Saved), slotKept a un e = some v → v.lastSeen ≤ m := by
  have hfold : ∀ (l : List EntryIx) (n : Nat),
      l.foldl (fun m e => match slotKept a un e with | some v => max m v.lastSeen | none => m) n ≤ m ↔
        n ≤ m ∧ ∀ e ∈ l, ∀ v, slotKept a un e = some v → v.lastSeen ≤ m := by
    intro l
    induction l with
    | nil => simp
    | cons e l ih =>
      intro n
      rw [List.foldl_cons, ih]
      cases hk : slotKept a un e with
      | none => simp [hk]
      | some v => simp [hk, and_assoc]
  unfold greatestSeen
  refine (hfold allEntries 0).trans ?_
  simp [mem_allEntries]

theorem headerTorn_iff {hu : Bool} : headerTorn a hu = true ↔ hu = true ∨ a.header = .torn ∨
    ∃ q w c, a.header = .stored q w c ∧ c ≠ headerCheck q w := by
  unfold headerTorn
  rw [Bool.or_eq_true]
  cases hheader : a.header <;> simp

theorem loadHeader_of_fresh {hu : Bool} (h : (hu = false ∧ a.header = .erased) ∨ headerTorn a hu = true) :
    loadHeader a un hu = { sequence := greatestSeen a un, writtenOff := 0, check := 0, dirty := true } := by
  unfold loadHeader
  dsimp only
  split
  · rfl
  · next htorn =>
    rw [(h.resolve_right htorn).2]

theorem loadHeader_of_stored {hu : Bool} {q w : Nat} (hread : hu = false)
    (hstored : a.header = .stored q w (headerCheck q w)) :
    loadHeader a un hu =
      { sequence := max q (greatestSeen a un), writtenOff := w, check := headerCheck q w, dirty := false } := by
  have htorn : ¬headerTorn a hu = true := by
    rw [headerTorn_iff, hstored, hread]
    rintro (h | h | ⟨q', w', c', h, hne⟩)
    · cases h
    · cases h
    · cases h
      exact hne rfl
  unfold loadHeader
  dsimp only
  rw [if_neg htorn, hstored]

/-- Whatever the header is, no kept slot is later than its sequence. -/
theorem greatestSeen_le_sequence (hu : Bool) : greatestSeen a un ≤ (loadHeader a un hu).sequence := by
  unfold loadHeader
  dsimp only
  split
  · exact le_rfl
  · split
    · exact le_max_right ..
    · exact le_rfl

end

/-! ### The load -/

theorem loadRegistry_registry (un : List EntryIx) (hu : Bool) (s : State) : (loadRegistry un hu s).registry =
    { Registry.reset with entries := Vector.ofFn (loadEntry s.array un), header := loadHeader s.array un hu } := by
  unfold loadRegistry
  dsimp only
  split
  · rfl
  · rw [post_registry]

theorem loadRegistry_entry (un : List EntryIx) (hu : Bool) (s : State) (e : EntryIx) :
    (loadRegistry un hu s).registry.entries[e] = loadEntry s.array un e := by
  rw [loadRegistry_registry]
  simp

/-- What is discarded is left dirty, but for a torn header, which is counted as well. -/
theorem discards_eq (a : StoredArray) (un : List EntryIx) (hu : Bool) : discards a un hu =
    (List.finRange 48).countP (fun e => (loadEntry a un e).dirty) + (headerTorn a hu).toNat := by
  unfold discards
  rw [← List.countP_eq_length_filter]
  simp only [loadEntry_dirty]
  rfl

/-- Settles O10: each slot by its kind, the serials by `kept_unique`, the sequence as a least bound. -/
theorem loadJudgesEachSlot : Obligations.LoadJudgesEachSlot := by
  unfold Obligations.LoadJudgesEachSlot
  intro un hu s
  have hentry := loadRegistry_entry un hu s
  have hheader : (loadRegistry un hu s).registry.header = loadHeader s.array un hu := by rw [loadRegistry_registry]
  have hseen {m : Nat} : greatestSeen s.array un ≤ m ↔ ∀ e : EntryIx,
      (loadRegistry un hu s).registry.entries[e].saved.valid = true →
        (loadRegistry un hu s).registry.entries[e].saved.lastSeen ≤ m := by
    rw [greatestSeen_le]
    refine forall_congr' fun e => ?_
    rw [hentry]
    refine ⟨fun h hvalid => h _ (slotKept_of_valid hvalid), fun h v hk => ?_⟩
    obtain ⟨hsaved, hvalid⟩ := loadEntry_valid_of_kept hk
    have := h hvalid
    rwa [hsaved] at this
  have hfresh (h : (hu = false ∧ s.array.header = .erased) ∨ (hu = true ∨ s.array.header = .torn ∨
      ∃ q w c, s.array.header = .stored q w c ∧ c ≠ headerCheck q w)) :=
    loadHeader_of_fresh (un := un) (h.imp_right headerTorn_iff.mpr)
  dsimp only
  refine ⟨fun e hread hslot => ?_, fun e htorn => ?_, fun e v hread hslot hvalid hwins => ?_,
    fun e f v w hne hreade hreadf hslote hslotf hvalide hvalidf hserial hbeats => ?_, fun e f hvalide hvalidf hserial => ?_,
    fun h => ?_, fun q w hread hstored => ?_, hseen.mp ?_, fun m hbound hreached => ?_, ?_, ?_, ?_, fun k hk => ?_⟩
  · have hm : slotMatches s.array un e = none := by
      rw [Option.eq_none_iff_forall_ne_some]
      intro v hm
      obtain ⟨-, hstored, hvalid⟩ := slotMatches_iff.mp hm
      obtain herased | ⟨w, c, hw, hinvalid⟩ := hslot
      · rw [herased] at hstored
        cases hstored
      · rw [hw] at hstored
        cases hstored
        rw [hvalid] at hinvalid
        cases hinvalid
    have hk : slotKept s.array un e = none := by rw [slotKept, hm]
    have htorn : slotTorn s.array un e = false := by
      rw [Bool.eq_false_iff, Ne, slotTorn_iff]
      rintro (hun | htorn | ⟨w, c, hw, hvalid, -⟩)
      · exact hread hun
      · obtain h | ⟨w, c, h, -⟩ := hslot <;> rw [h] at htorn <;> cases htorn
      · obtain h | ⟨w', c', h, hinvalid⟩ := hslot
        · rw [h] at hw
          cases hw
        · rw [h] at hw
          cases hw
          rw [hvalid] at hinvalid
          cases hinvalid
    rw [hentry, loadEntry_of_not_kept hk, slotDiscarded_of_unmatched hm, htorn]
    exact ⟨rfl, rfl⟩
  · have htorn := slotTorn_iff.mpr htorn
    have hk : slotKept s.array un e = none := by
      rw [Option.eq_none_iff_forall_ne_some]
      intro v hk
      rw [slotTorn_of_match (slotKept_iff.mp hk).1] at htorn
      cases htorn
    rw [hentry, loadEntry_of_not_kept hk, slotDiscarded_of_torn htorn]
    exact ⟨rfl, rfl⟩
  · have hm := slotMatches_iff.mpr ⟨hread, hslot, hvalid⟩
    have hunbeaten : slotBeaten s.array un e v = false := by
      rw [Bool.eq_false_iff, Ne, slotBeaten_iff]
      rintro ⟨f, w, hmf, hne, hserial, hbeats⟩
      obtain ⟨hreadf, hslotf, hvalidf⟩ := slotMatches_iff.mp hmf
      have hlost : w.lastSeen < v.lastSeen ∨ (w.lastSeen = v.lastSeen ∧ e < f) :=
        hwins f w hne hreadf hslotf hvalidf hserial
      obtain hlost | ⟨heq, hlost⟩ := hlost <;> obtain hbeats | ⟨hsame, hbeats⟩ := hbeats
      · exact hlost.asymm hbeats
      · omega
      · omega
      · exact hlost.asymm hbeats
    rw [hentry, loadEntry_of_kept (slotKept_iff.mpr ⟨hm, hunbeaten⟩)]
  · have hm := slotMatches_iff.mpr ⟨hreade, hslote, hvalide⟩
    have hbeaten : slotBeaten s.array un e v = true :=
      slotBeaten_iff.mpr ⟨f, w, slotMatches_iff.mpr ⟨hreadf, hslotf, hvalidf⟩, Ne.symm hne, hserial, hbeats⟩
    have hk : slotKept s.array un e = none := by rw [slotKept, hm]; exact if_pos hbeaten
    rw [hentry, loadEntry_of_not_kept hk, slotDiscarded_of_beaten hm hk]
    exact ⟨rfl, rfl⟩
  · rw [hentry] at hvalide hserial
    rw [hentry] at hvalidf hserial
    exact kept_unique (slotKept_of_valid hvalide) (slotKept_of_valid hvalidf) hserial
  · rw [hheader, hfresh h]
    exact ⟨rfl, rfl⟩
  · rw [hheader, loadHeader_of_stored hread hstored]
    exact ⟨rfl, rfl, rfl, le_max_left ..⟩
  · rw [hheader]
    exact greatestSeen_le_sequence hu
  · have hm : greatestSeen s.array un = m := by
      refine le_antisymm (hseen.mpr hbound) ?_
      obtain rfl | ⟨e, hvalid, rfl⟩ := hreached
      · exact Nat.zero_le _
      · exact hseen.mp le_rfl e hvalid
    refine ⟨fun h => ?_, fun q w hread hstored => ?_⟩
    · rw [hheader, hfresh h, hm]
    · rw [hheader, loadHeader_of_stored hread hstored, hm]
  · rw [loadRegistry_registry]; rfl
  · rw [loadRegistry_registry]; rfl
  · rw [loadRegistry_registry]; rfl
  · have hcount : discards s.array un hu = k + (headerTorn s.array hu).toNat := by
      rw [discards_eq, hk]
      simp only [hentry]
    have hload : loadRegistry un hu s = if discards s.array un hu = 0
        then { s with registry := (loadRegistry un hu s).registry }
        else post .registryTorn none (toLE 1 (discards s.array un hu))
          { s with registry := (loadRegistry un hu s).registry } := by
      rw [loadRegistry_registry]
      rfl
    refine ⟨fun h => ?_, fun h => ?_⟩
    · rw [headerTorn_iff.mpr h] at hcount
      rw [hcount] at hload
      exact hload
    · rw [Bool.eq_false_iff.mpr fun htorn => h (headerTorn_iff.mp htorn)] at hcount
      rw [hcount] at hload
      exact hload

end Sys2Proof.Machine
end

section
/-! SUPPORT. The fields of the profile's image, the checks over them, and what acceptance does (R167, R168, R186). -/

namespace Sys2Proof.Machine

/-! ### Fields of an image -/

theorem field_zero (l : List Byte) (o : Nat) : field l o 0 = 0 := by
  unfold field slice
  rw [List.take_zero, leNat]

/-- A field's bytes are taken one by one, the lowest first. -/
theorem field_succ {l : List Byte} {o : Nat} (n : Nat) (h : o < l.length) :
    field l o (n + 1) = l[o].toNat + 256 * field l (o + 1) n := by
  unfold field slice
  rw [List.drop_eq_getElem_cons h, List.take_succ_cons, leNat]

theorem leNat_lt : ∀ l : List Byte, leNat l < 256 ^ l.length
  | [] => Nat.one_pos
  | v :: l => by
    have hv := v.isLt
    have hl := leNat_lt l
    rw [leNat, List.length_cons, Nat.pow_succ]
    omega

theorem field_lt (l : List Byte) (o n : Nat) : field l o n < 256 ^ n := by
  refine (leNat_lt _).trans_le (Nat.pow_le_pow_right (by decide) ?_)
  rw [slice, List.length_take]
  exact min_le_left ..

section
variable {img : List Byte}

/-- Inside an image the model's field is R186's. -/
theorem imageField_eq : ∀ (n o : Nat), o + n ≤ img.length → imageField img o n = field img o n
  | 0, o, _ => (field_zero img o).symm
  | n + 1, o, h => by
    have ho : o < img.length := by omega
    rw [field_succ n ho, imageField, imageField_eq n (o + 1) (by omega), imageByte, List.getD_eq_getElem _ _ ho]

theorem imageByte_toNat {o : Nat} (h : o < img.length) : (imageByte img o).toNat = field img o 1 := by
  rw [field_succ 0 h, field_zero, imageByte, List.getD_eq_getElem _ _ h]
  rfl

theorem imageByte_bit {o i : Nat} (h : o < img.length) : (imageByte img o).getLsbD i = (field img o 1).testBit i := by
  rw [← imageByte_toNat h, BitVec.testBit_toNat]

/-- A number that fits is stored whole. -/
theorem ofNat_field (o n w : Nat) (hw : 8 * n = w) : (BitVec.ofNat w (field img o n)).toNat = field img o n := by
  refine BitVec.toNat_ofNat .. |>.trans (Nat.mod_eq_of_lt ?_)
  have h := field_lt img o n
  rwa [show 256 = 2 ^ 8 from rfl, ← Nat.pow_mul, hw] at h

end

/-! ### The profile's fields (R186) -/

section
variable {img : List Byte} (hlen : img.length = 341)
include hlen

theorem profileOf_plane {i : Nat} (hi : i < 16) :
    let o := 0x018 + 8 * i
    ∃ x : PlaneEntry, (profileOf img).planes[i]? = some x ∧ x.base = field img o 3 ∧ x.length = field img (o + 3) 4 ∧
      x.bay.val = field img (o + 7) 1 % 8 ∧ x.enabled = (field img (o + 7) 1).testBit 7 := by
  refine ⟨planeOf img i, by simp [profileOf, planesOf, hi], ?_⟩
  unfold planeOf
  dsimp only
  rw [imageField_eq _ _ (by omega), imageField_eq _ _ (by omega), imageField_eq _ _ (by omega), imageByte_bit (by omega)]
  exact ⟨rfl, rfl, rfl, rfl⟩

theorem profileOf_bay (b : Bay) :
    let o := 0x098 + 12 * b.val
    let x := (profileOf img).bays[b]
    x.ink.toNat = field img o 1 ∧ x.lowMark = field img (o + 1) 1 ∧ x.small = field img (o + 2) 2 ∧
      x.medium = field img (o + 4) 2 ∧ x.large = field img (o + 6) 2 ∧ x.commitStep = field img (o + 8) 2 ∧
      x.idleFlush = field img (o + 10) 2 := by
  have hb := b.isLt
  have hx : (profileOf img).bays[b] = baySettingsOf img b := by simp [profileOf]
  intro o x
  have hx : x = baySettingsOf img b := hx
  rw [hx]
  unfold baySettingsOf
  dsimp only
  rw [imageByte_toNat (by omega), imageField_eq _ _ (by omega), imageField_eq _ _ (by omega),
    imageField_eq _ _ (by omega), imageField_eq _ _ (by omega), imageField_eq _ _ (by omega),
    imageField_eq _ _ (by omega)]
  exact ⟨rfl, rfl, rfl, rfl, rfl, rfl, rfl⟩

theorem policyRowOf_fields {i : Nat} (hi : i < 5) :
    let o := 0x0F8 + 5 * i
    let r := policyRowOf img i
    (field img o 1 = 0 → r.action = .accept) ∧ (field img o 1 = 1 → r.action = .limit) ∧
      (field img o 1 = 2 → r.action = .block) ∧ r.allowanceLU = field img (o + 1) 3 ∧
      r.mark = (field img (o + 4) 1).testBit 0 := by
  intro o r
  have haction : r.action = actionOfCode (field img o 1) := congrArg actionOfCode (imageField_eq _ _ (by omega))
  rw [haction]
  refine ⟨fun h => by rw [h]; rfl, fun h => by rw [h]; rfl, fun h => by rw [h]; rfl, imageField_eq _ _ (by omega),
    imageByte_bit (by omega)⟩

theorem profileOf_key (i : Fin 4) : (profileOf img).keys[i].toNat = field img (0x111 + 16 * i.val) 16 := by
  have hi := i.isLt
  have hkey : (profileOf img).keys[i] = BitVec.ofNat 128 (imageField img (0x111 + 16 * i.val) 16) := by
    simp [profileOf]
  rw [hkey, imageField_eq _ _ (by omega), ofNat_field _ 16 128 rfl]

theorem profileOf_makers : (profileOf img).makers.length = min 4 (field img 0x002 1) ∧
    ∀ i : Nat, i < (profileOf img).makers.length → (profileOf img).makers[i]? = some (field img (0x00C + 2 * i) 2) := by
  have hmakers : (profileOf img).makers =
      (List.range (min 4 (field img 0x002 1))).map fun i => imageField img (0x00C + 2 * i) 2 := by
    rw [← imageField_eq 1 0x002 (by omega)]
    rfl
  rw [hmakers]
  refine ⟨by simp, fun i hi => ?_⟩
  have hi : i < min 4 (field img 0x002 1) := by simpa using hi
  have hsmall : i < 4 := hi.trans_le (min_le_left ..)
  rw [List.getElem?_map, List.getElem?_range hi, Option.map_some, imageField_eq _ _ (by omega)]

/-! ### The checks (R167) -/

theorem crcFails_iff : crcFails img = true ↔ (crc32 (img.take 337)).toNat ≠ field img 337 4 := by
  have hbody : imageBody img = img.take 337 := by
    apply List.ext_getElem
    · simp [imageBody, hlen]
    · intro i hi hi'
      have hlt : i < img.length := by
        rw [List.length_take] at hi'
        omega
      rw [List.getElem_take, ← List.getD_eq_getElem _ 0xFF#8 hlt]
      simp [imageBody, imageByte]
  unfold crcFails
  rw [hbody, imageField_eq _ _ (by omega), decide_eq_true_eq]

end

theorem PlaneEntry.overlaps_iff {x y : PlaneEntry} : x.overlaps y = true ↔
    x.enabled = true ∧ y.enabled = true ∧ x.base < y.base + y.length ∧ y.base < x.base + x.length := by
  unfold PlaneEntry.overlaps
  simp only [Bool.and_eq_true, decide_eq_true_eq, and_assoc]
  rfl

/-- An entry overlaps a later one. -/
theorem anyOverlap_iff : ∀ l : List PlaneEntry, anyOverlap l = true ↔
    ∃ i j : Nat, i < j ∧ ∃ x y : PlaneEntry, l[i]? = some x ∧ l[j]? = some y ∧ x.overlaps y = true
  | [] => by simp [anyOverlap]
  | p :: ps => by
    rw [anyOverlap, Bool.or_eq_true, List.any_eq_true, anyOverlap_iff ps]
    constructor
    · rintro (⟨y, hy, hover⟩ | ⟨i, j, hlt, x, y, hx, hy, hover⟩)
      · obtain ⟨j, hj⟩ := List.mem_iff_getElem?.mp hy
        exact ⟨0, j + 1, Nat.succ_pos _, p, y, rfl, hj, hover⟩
      · exact ⟨i + 1, j + 1, Nat.succ_lt_succ hlt, x, y, hx, hy, hover⟩
    · rintro ⟨i, j, hlt, x, y, hx, hy, hover⟩
      obtain ⟨j, rfl⟩ := Nat.exists_eq_succ_of_ne_zero (Nat.ne_of_gt (Nat.zero_lt_of_lt hlt))
      cases i with
      | zero =>
        obtain rfl : p = x := Option.some.inj hx
        exact .inl ⟨y, List.mem_of_getElem? hy, hover⟩
      | succ i => exact .inr ⟨i, j, Nat.lt_of_succ_lt_succ hlt, x, y, hx, hy, hover⟩

theorem planesFail_iff {l : List PlaneEntry} (hlen : l.length = 16) : planesFail l = true ↔
    (∃ i j : Nat, i < j ∧ j < 16 ∧ ∃ x y : PlaneEntry, l[i]? = some x ∧ l[j]? = some y ∧
      x.enabled = true ∧ y.enabled = true ∧ x.base < y.base + y.length ∧ y.base < x.base + x.length) ∨
    (∃ x ∈ l, x.enabled = true ∧ (0xFFFFFF < x.base + x.length - 1 ∨ x.length = 0)) := by
  unfold planesFail
  rw [Bool.or_eq_true, anyOverlap_iff, List.any_eq_true]
  refine or_congr (exists_congr fun i => exists_congr fun j => ?_) (exists_congr fun x => and_congr_right fun _ => ?_)
  · refine and_congr_right fun _ => ⟨fun ⟨x, y, hx, hy, hover⟩ => ?_, fun ⟨_, x, y, hx, hy, hover⟩ => ?_⟩
    · have hj : j < l.length := (List.getElem?_eq_some_iff.mp hy).1
      exact ⟨hlen ▸ hj, x, y, hx, hy, PlaneEntry.overlaps_iff.mp hover⟩
    · exact ⟨x, y, hx, hy, PlaneEntry.overlaps_iff.mpr hover⟩
  · rw [Bool.and_eq_true, Bool.or_eq_true, decide_eq_true_eq, beq_iff_eq, PlaneEntry.last]
    refine and_congr_right fun _ => or_congr_left ?_
    omega

theorem weightsFail_iff (p : Profile) : weightsFail p = true ↔ ∃ b : Bay, p.bays[b].medium < p.bays[b].small ∨
    p.bays[b].large < p.bays[b].medium ∨ (p.bays[b].large = 0 ∧ ∃ x ∈ p.planes, x.enabled = true ∧ x.bay = b) := by
  unfold weightsFail
  simp only [List.any_eq_true, mem_allBays, true_and, Bool.or_eq_true, Bool.and_eq_true, decide_eq_true_eq, beq_iff_eq,
    gt_iff_lt, or_assoc]

theorem within_iff {lo v hi : Nat} : within lo v hi = true ↔ lo ≤ v ∧ v ≤ hi := by
  simp [within]

theorem rangeFails_iff {img : List Byte} (hlen : img.length = 341) : rangeFails img (profileOf img) = true ↔
    let p := profileOf img
    (∃ b : Bay, p.bays[b].commitStep < 1 ∨ 10000 < p.bays[b].commitStep ∨ p.bays[b].idleFlush < 5 ∨
      600 < p.bays[b].idleFlush ∨ 100 < p.bays[b].lowMark) ∨
    50 < p.margin ∨ p.swathLimitMs < 100 ∨ 10000 < p.swathLimitMs ∨ p.saveInterval < 1 ∨ 255 < p.saveInterval ∨
    4 < field img 2 1 ∨ (∃ i : Nat, i < 5 ∧ 2 < field img (0x0F8 + 5 * i) 1) ∨ 3 < field img 3 1 := by
  have hbaud : (profileOf img).baud = field img 3 1 := imageField_eq 1 3 (by omega)
  have hcodes : ((List.range 5).all fun i => within 0 (imageField img (0x0F8 + 5 * i) 1) 2) = true ↔
      ∀ i : Nat, i < 5 → field img (0x0F8 + 5 * i) 1 ≤ 2 := by
    simp only [List.all_eq_true, List.mem_range, within_iff, Nat.zero_le, true_and]
    refine forall_congr' fun i => forall_congr' fun hi => ?_
    rw [imageField_eq _ _ (by omega)]
  dsimp only
  unfold rangeFails
  rw [Bool.not_eq_true', Bool.eq_false_iff, Ne, imageField_eq 1 2 (by omega)]
  simp only [Bool.and_eq_true, hcodes, List.all_eq_true, mem_allBays, true_imp_iff, within_iff, hbaud, Nat.zero_le,
    true_and]
  grind

/-! ### The first check that fails -/

section
variable {img : List Byte}

theorem profileFault_of_crc (h : crcFails img = true) : profileFault img = some .crc := if_pos h

theorem profileFault_of_version (hcrc : crcFails img = false) (h : imageField img 0x000 2 ≠ 1) :
    profileFault img = some .version := by
  unfold profileFault
  dsimp only
  rw [hcrc, if_neg (by decide), if_pos h]

/-- The three checks that follow the version's. -/
theorem profileFault_of_good_version (hcrc : crcFails img = false) (hversion : imageField img 0x000 2 = 1) :
    profileFault img = if planesFail (profileOf img).planes then some .planes
      else if weightsFail (profileOf img) then some .weights
      else if rangeFails img (profileOf img) then some .range else none := by
  unfold profileFault
  dsimp only
  rw [hcrc, if_neg (by decide), if_neg (not_not.mpr hversion)]

theorem rangeFails_of_accepted (h : profileFault img = none) : rangeFails img (profileOf img) = false := by
  rw [Bool.eq_false_iff]
  intro hrange
  unfold profileFault at h
  dsimp only at h
  rw [if_pos hrange] at h
  split_ifs at h

end

/-- Settles O8: the fields by their offsets, and each check by what it looks at. -/
theorem profileChecksInOrder : Obligations.ProfileChecksInOrder := by
  unfold Obligations.ProfileChecksInOrder
  intro img hlen
  have number (o n w : Nat) (hw : 8 * n = w) (hfit : o + n ≤ 341) :
      (BitVec.ofNat w (imageField img o n)).toNat = field img o n := by
    rw [imageField_eq _ _ (by omega), ofNat_field _ _ _ hw]
  have plain (o n : Nat) (hfit : o + n ≤ 341) : imageField img o n = field img o n := imageField_eq _ _ (by omega)
  have hversion : imageField img 0x000 2 = field img 0 2 := plain 0 2 (by decide)
  have hplanes := planesFail_iff (l := (profileOf img).planes) (by simp [profileOf, planesOf])
  have hweights := weightsFail_iff (profileOf img)
  have hrange := rangeFails_iff hlen
  dsimp only at hrange ⊢
  rw [← crcFails_iff hlen, ← hplanes, ← hweights, ← hrange, ← hversion]
  simp only [Bool.not_eq_true]
  obtain ⟨hmakers, hmaker⟩ := profileOf_makers hlen
  refine ⟨⟨hmakers, hmaker, plain _ _ (by decide), number _ 4 32 rfl (by decide), plain _ _ (by decide),
      plain _ _ (by decide), plain _ _ (by decide), number _ 4 32 rfl (by decide), by simp [profileOf, planesOf],
      fun i => profileOf_plane hlen, profileOf_bay hlen, policyRowOf_fields hlen (by decide),
      policyRowOf_fields hlen (by decide), policyRowOf_fields hlen (by decide), policyRowOf_fields hlen (by decide),
      policyRowOf_fields hlen (by decide), profileOf_key hlen⟩,
    profileFault_of_crc, profileFault_of_version, fun hcrc hver hfail => ?_, fun hcrc hver hplane hfail => ?_,
    fun hcrc hver hplane hweight hfail => ?_, fun hcrc hver hplane hweight hgood => ?_⟩
  · rw [profileFault_of_good_version hcrc (not_not.mp hver), hfail, if_pos rfl]
  · rw [profileFault_of_good_version hcrc (not_not.mp hver), hplane, hfail]
    rfl
  · rw [profileFault_of_good_version hcrc (not_not.mp hver), hplane, hweight, hfail]
    rfl
  · rw [profileFault_of_good_version hcrc (not_not.mp hver), hplane, hweight, hgood]
    rfl

theorem baudRate_eq (n : Nat) : baudRate n = if n = 0 then 57600 else if n = 1 then 115200
    else if n = 2 then 230400 else 460800 := by
  unfold baudRate
  split <;> simp_all

/-- Settles O7: the first failing check gives the reason, and an image without one is accepted whole. -/
theorem profileReadAcceptsOrRefuses : Obligations.ProfileReadAcceptsOrRefuses := by
  unfold Obligations.ProfileReadAcceptsOrRefuses
  intro img s hpow hpart hphase hlen
  have hexec : exec (.profileReadDone img) s = .next (profileRead img s) :=
    exec_of_powered (by simp) (decide_eq_true hlen) hpow
  rw [hexec, profileRead, hpart, hphase]
  refine ⟨fun r hfault => ?_, fun hgood => ⟨?_, ?_⟩⟩
  · rw [hfault]
  · have hrange := rangeFails_iff hlen
    rw [rangeFails_of_accepted hgood] at hrange
    dsimp only at hrange
    by_contra hbaud
    exact absurd (hrange.mpr (by simp [Nat.lt_of_not_le hbaud])) (by decide)
  · rw [hgood, ← baudRate_eq, ← imageField_eq 4 0x014 (by omega), ← imageField_eq 1 0x003 (by omega)]
    rfl

end Sys2Proof.Machine
end

section
/-! SUPPORT. What the swath's acts leave of the lines, the link port, the mark writers and the flush timers; swath starts
and ends, the link reset, and the entry to READY (R48 to R54, R83, R144, R169, R171). -/

namespace Sys2Proof.Machine

/-! ### Bay after bay -/

theorem forBays_preserves {P : State → Prop} {f : Bay → State → State} {s : State} (hs : P s)
    (hf : ∀ b t, P t → P (f b t)) : P (forBays f s) := by
  have hfold : ∀ (l : List Bay) (s : State), P s → P (l.foldl (fun t b => f b t) s) := by
    intro l
    induction l with
    | nil => exact fun _ => id
    | cons b l ih => exact fun s hs => ih _ (hf b s hs)
  exact hfold allBays s hs

theorem forBays_same {f : Bay → State → State} {s : State} (h : ∀ b, f b s = s) : forBays f s = s :=
  forBays_preserves (P := (· = s)) rfl fun b t ht => by rw [ht, h b]

/-- Two acts that agree wherever a condition holds that one of them keeps agree bay after bay. -/
theorem forBays_congr {P : State → Prop} {f g : Bay → State → State} {s : State} (hs : P s)
    (hg : ∀ b t, P t → P (g b t)) (h : ∀ b t, P t → f b t = g b t) : forBays f s = forBays g s := by
  have hfold : ∀ (l : List Bay) (s : State), P s →
      l.foldl (fun t b => f b t) s = l.foldl (fun t b => g b t) s := by
    intro l
    induction l with
    | nil => exact fun _ _ => rfl
    | cons b l ih =>
      intro s hs
      rw [List.foldl_cons, List.foldl_cons, h b s hs]
      exact ih _ (hg b s hs)
  exact hfold allBays s hs

theorem forBays_modCtx (f : Bay → BayContext → BayContext) (s : State) :
    forBays (fun b t => t.modCtx b (f b)) s = { s with ctx := updAll s.ctx f } := by
  have hfold : ∀ (l : List Bay) (s : State), l.foldl (fun t b => t.modCtx b (f b)) s =
      { s with ctx := l.foldl (fun w b => upd w b (f b)) s.ctx } := by
    intro l
    induction l with
    | nil => exact fun _ => rfl
    | cons b l ih => exact fun s => ih _
  rw [forBays, hfold, updAll_of_bays]

/-! ### The lines, the link port, the mark writers and the flush timers -/

/-- What the pool, the verdict unit and a commit's start have no hand in. -/
structure Side where
  lines : Vector LineUnit 8
  link : LinkPort
  marks : Vector MarkWriter 8
  flush : Vector FlushTimer 8

def State.side (s : State) : Side :=
  { lines := s.lines, link := s.link, marks := s.marks, flush := s.commits.map CommitContext.flush }

section
variable {s t : State} (h : t.side = s.side)
include h
theorem lines_of_side : t.lines = s.lines := congrArg Side.lines h
theorem link_of_side : t.link = s.link := congrArg Side.link h
theorem marks_of_side : t.marks = s.marks := congrArg Side.marks h

theorem flush_of_side (b : Bay) : t.commits[b].flush = s.commits[b].flush := by
  have hflush : (t.commits.map CommitContext.flush)[b] = (s.commits.map CommitContext.flush)[b] :=
    congrArg (fun x : Side => x.flush[b]) h
  simpa using hflush

end

theorem side_of_fields {s t : State} (hlines : t.lines = s.lines) (hlink : t.link = s.link) (hmarks : t.marks = s.marks)
    (hcommits : t.commits = s.commits) : t.side = s.side := by
  unfold State.side
  rw [hlines, hlink, hmarks, hcommits]

theorem post_side (k : NoticeKind) (b : Option Bay) (d : List Byte) (s : State) : (post k b d s).side = s.side :=
  side_of_fields (post_lines ..) (post_link ..) (post_marks ..) (post_commits ..)

theorem modPool_side (f : DebitPool → DebitPool) (s : State) : (s.modPool f).side = s.side := rfl
theorem modEntry_side (e : EntryIx) (f : Entry → Entry) (s : State) : (s.modEntry e f).side = s.side := rfl
theorem modCtx_side (b : Bay) (f : BayContext → BayContext) (s : State) : (s.modCtx b f).side = s.side := rfl

theorem requestProof_side (b : Bay) (r : Requester) (i : ProofInputs) (s : State) :
    (requestProof b r i s).side = s.side := rfl

/-- An update of a commit that leaves its flush timer. -/
theorem modCommit_side {b : Bay} {f : CommitContext → CommitContext} {s : State}
    (h : (f s.commits[b]).flush = s.commits[b].flush) : (s.modCommit b f).side = s.side := by
  have hflush : (upd s.commits b f).map CommitContext.flush = s.commits.map CommitContext.flush := by
    apply row_ext
    intro d
    by_cases hd : d = b
    · subst hd
      simpa [upd] using h
    · have := upd_ne s.commits b d f hd
      simp_all
  unfold State.side
  rw [modCommit_commits, hflush]
  rfl

theorem addCarry_side (b : Bay) (v : Nat) (s : State) : (addCarry b v s).side = s.side := by
  obtain ⟨-, hlines, hcommits, hmarks, -, hlink, -⟩ := addCarry_rest b v s
  exact side_of_fields hlines hlink hmarks hcommits

theorem addDebt_side (e : EntryIx) (v : Nat) (b : Option Bay) (s : State) : (addDebt e v b s).side = s.side := by
  obtain ⟨-, hlines, hcommits, hmarks, -, hlink, -⟩ := addDebt_rest e v b s
  exact side_of_fields hlines hlink hmarks hcommits

theorem returnBatch_side (b : Bay) (e : EntryIx) (s : State) : (returnBatch b e s).side = s.side := by
  obtain ⟨-, hlines, hmarks, -, hlink, hcommits, -⟩ := returnBatch_rest b e s
  have hsettle : (s.modCommit b CommitContext.settle).side = s.side := modCommit_side rfl
  rw [← hsettle]
  exact side_of_fields hlines hlink hmarks hcommits

theorem starve_side (b : Bay) (v : Nat) (s : State) : (starve b v s).side = s.side := by
  unfold starve
  rw [post_side, modPool_side, addCarry_side]

theorem placeTally_side (b : Bay) (e : EntryIx) (w : BitVec 16) (v : Nat) (s : State) :
    (placeTally b e w v s).side = s.side := by
  unfold placeTally
  split
  · exact addDebt_side ..
  · split
    · unfold placeInPending
      split
      · rfl
      · exact starve_side b v s
    · split
      · exact addCarry_side ..
      · exact addDebt_side ..

theorem drawAllowance_side (b : Bay) (e : EntryIx) (v : Nat) (s : State) : (drawAllowance b e v s).side = s.side := by
  unfold drawAllowance
  dsimp only
  split
  · rfl
  · split
    · rw [post_side]
      split <;> rfl
    · rfl

/-- A commit's start moves the commit's batch and plan, never its flush timer (R83, R86 to R89). -/
theorem commitStart_side (b : Bay) (e : EntryIx) (s : State) : (commitStart b e s).side = s.side := by
  have hform : (formBatch b e s).side = s.side := by
    unfold formBatch
    refine (modCommit_side ?_).trans ?_
    · rfl
    · rw [modEntry_side, modPool_side]
  unfold commitStart
  dsimp only
  split
  · unfold absorb
    refine (modCommit_side ?_).trans ?_
    · rfl
    · rw [modPool_side, modEntry_side, hform]
  · split
    · unfold refuseCountSpent stickyFault
      rw [post_side, modCtx_side, returnBatch_side, hform]
    · unfold planWrite
      rw [requestProof_side, ← hform]
      refine modCommit_side ?_
      rfl

theorem judge_side (b : Bay) (s : State) : (judge b s).side = s.side := by
  unfold judge
  split
  · exact commitStart_side ..
  · rfl

theorem forBays_judge_side (s : State) : (forBays judge s).side = s.side :=
  forBays_preserves (P := fun t => t.side = s.side) rfl fun b t ht => (judge_side b t).trans ht

/-! ### A handover (R53) -/

theorem handover_of_closed {b : Bay} {s : State} (h : s.tracker.gate[b] = false ∨ s.tracker.owner[b] = none) :
    handover b s = s := by
  unfold handover
  split
  · next hgate howner =>
    obtain h | h := h
    · rw [hgate] at h; cases h
    · rw [howner] at h; cases h
  · rfl

/-- What a handover has done once its own bay's commit is judged. -/
def handed (b : Bay) (e : EntryIx) (s : State) : State :=
  let v := s.meter.tally[b]
  judge b (drawAllowance b e v (if v = 0 then s else placeTally b e s.tracker.number v s))

theorem handover_of_open {b : Bay} {e : EntryIx} {s : State} (hgate : s.tracker.gate[b] = true)
    (howner : s.tracker.owner[b] = some e) : handover b s =
      ((handed b e s).ownedBay e).elim (handed b e s) fun c => judge c (handed b e s) := by
  unfold handover
  rw [hgate, howner]
  dsimp only
  unfold handed
  dsimp only
  split
  · next hc => rw [hc, Option.elim_some]
  · next hc => rw [hc, Option.elim_none]

theorem handed_side (b : Bay) (e : EntryIx) (s : State) : (handed b e s).side = s.side := by
  unfold handed
  dsimp only
  rw [judge_side, drawAllowance_side]
  split
  · rfl
  · exact placeTally_side ..

theorem handover_side (b : Bay) (s : State) : (handover b s).side = s.side := by
  by_cases hopen : s.tracker.gate[b] = true ∧ s.tracker.owner[b] ≠ none
  · obtain ⟨hgate, howner⟩ := hopen
    obtain ⟨e, he⟩ := Option.ne_none_iff_exists'.mp howner
    rw [handover_of_open hgate he]
    cases (handed b e s).ownedBay e with
    | none => exact handed_side b e s
    | some c => exact (judge_side c _).trans (handed_side b e s)
  · rw [handover_of_closed]
    rw [not_and_or, Bool.not_eq_true, not_not] at hopen
    exact hopen

theorem ownedBay_of_none {e : EntryIx} {s : State} (h : ∀ c : Bay, s.ctx[c].owner ≠ some e) : s.ownedBay e = none :=
  List.find?_eq_none.mpr fun c _ => by simpa using h c

theorem ownedBay_of_one {e : EntryIx} {c : Bay} {s : State} (hc : s.ctx[c].owner = some e)
    (hone : ∀ d : Bay, s.ctx[d].owner = some e → d = c) : s.ownedBay e = some c := by
  cases h : s.ownedBay e with
  | none =>
    exact absurd (beq_iff_eq.mpr hc) (List.find?_eq_none.mp h c (mem_allBays c))
  | some d =>
    have hd : s.ctx[d].owner = some e := by simpa using List.find?_some h
    rw [hone d hd]

/-! ### A swath's start and end (R49, R52) -/

theorem swathStart_side (s : State) :
    (swathStart s).lines = s.lines ∧ (swathStart s).link = s.link ∧ (swathStart s).marks = s.marks ∧
      ∀ b : Bay, (swathStart s).commits[b].flush = .stopped := by
  have h := forBays_judge_side { s with
    tracker := { state := .openSwath, number := s.tracker.number + 1,
                 gate := Vector.ofFn fun b => (gateOwner s b).isSome, owner := Vector.ofFn fun b => gateOwner s b,
                 limit := .running (s.profile.swathLimitMs * 1000) }
    meter := DropMeter.reset
    commits := updAll s.commits fun _ c => { c with flush := .stopped } }
  rw [swathStart_eq]
  rw [lines_of_side h, link_of_side h, marks_of_side h]
  refine ⟨rfl, rfl, rfl, fun b => ?_⟩
  rw [flush_of_side h, updAll_get]

/-- A swath start's tracker and meter, and what it leaves of the records beside them. -/
theorem swathStart_fields (s : State) :
    (swathStart s).tracker = { state := .openSwath, number := s.tracker.number + 1,
                               gate := Vector.ofFn fun b => (gateOwner s b).isSome,
                               owner := Vector.ofFn fun b => gateOwner s b,
                               limit := .running (s.profile.swathLimitMs * 1000) } ∧
      (swathStart s).meter = DropMeter.reset ∧ (swathStart s).part = s.part ∧ (swathStart s).sram = s.sram ∧
      (swathStart s).array = s.array ∧ (swathStart s).fire = s.fire ∧ (swathStart s).port = s.port ∧
      (swathStart s).pins = s.pins := by
  have h := (keeps_forBays { s with
    tracker := { state := .openSwath, number := s.tracker.number + 1,
                 gate := Vector.ofFn fun b => (gateOwner s b).isSome, owner := Vector.ofFn fun b => gateOwner s b,
                 limit := .running (s.profile.swathLimitMs * 1000) }
    meter := DropMeter.reset
    commits := updAll s.commits fun _ c => { c with flush := .stopped } } judge fun b t => keeps_judge t b).outer
  rw [← swathStart_eq] at h
  generalize swathStart s = t at h ⊢
  exact ⟨congrArg Outer.tracker h, congrArg Outer.meter h, congrArg Outer.part h, congrArg Outer.sram h,
    congrArg Outer.array h, congrArg Outer.fire h, congrArg Outer.port h, congrArg Outer.pins h⟩

theorem swathEnd_side (s : State) :
    (swathEnd s).lines = s.lines ∧ (swathEnd s).link = s.link ∧ (swathEnd s).marks = s.marks ∧
      ∀ b : Bay, (swathEnd s).commits[b].flush = .running (s.profile.bays[b].idleFlush * 100000) := by
  have hhand : (forBays handover { s with tracker := { s.tracker with limit := .stopped } }).side = s.side :=
    forBays_preserves (P := fun t => t.side = s.side) rfl fun b t ht => (handover_side b t).trans ht
  rw [swathEnd_eq]
  dsimp only
  generalize forBays handover { s with tracker := { s.tracker with limit := .stopped } } = t at hhand ⊢
  have h := forBays_judge_side { t with
    tracker := { t.tracker with gate := .replicate 8 false, owner := .replicate 8 none }
    commits := updAll t.commits fun b c => { c with flush := .running (s.profile.bays[b].idleFlush * 100000) } }
  have hlines : t.lines = s.lines := lines_of_side hhand
  have hlink : t.link = s.link := link_of_side hhand
  have hmarks : t.marks = s.marks := marks_of_side hhand
  rw [lines_of_side h, link_of_side h, marks_of_side h]
  refine ⟨hlines, hlink, hmarks, fun b => ?_⟩
  rw [flush_of_side h, updAll_get]

/-! ### The statements -/

/-- Settles O22: the rise is `swathStart`, and each gate is latched by `gateOwner`. -/
theorem swathRiseLatchesTheGates : Obligations.SwathRiseLatchesTheGates := by
  unfold Obligations.SwathRiseLatchesTheGates
  intro s hpow
  have hexec : exec .swathRise s = .next (finish (swathRises (s.modPins fun p => { p with swath := true }))) :=
    exec_of_powered (by decide) rfl hpow
  rw [hexec]
  refine ⟨fun hidle hready => ?_, fun hother => ?_⟩
  · have hrises : swathRises (s.modPins fun p => { p with swath := true }) =
        swathStart (s.modPins fun p => { p with swath := true }) := if_pos ⟨hidle, hready⟩
    refine ⟨Vector.ofFn fun b => (gateOwner s b).isSome, Vector.ofFn fun b => gateOwner s b, ?_, fun b => ?_⟩
    · rw [hrises, swathStart_eq]
      rfl
    · have hgate : (Vector.ofFn fun b => (gateOwner s b).isSome)[b] = (gateOwner s b).isSome := by simp
      have howner : (Vector.ofFn fun b => gateOwner s b)[b] = gateOwner s b := by simp
      rw [hgate, howner]
      refine ⟨rfl, rfl, fun hnone => ?_, fun e he => ?_⟩
      · rw [gateOwner, hnone]
        exact ⟨rfl, rfl⟩
      · rw [gateOwner, he]
        dsimp only
        simp only [hready, true_and, Sticky.any_eq_false_iff]
        split
        · next hopen => exact ⟨by simpa using hopen, rfl⟩
        · next hopen => exact ⟨by simpa using hopen, rfl⟩
  · have hrises : swathRises (s.modPins fun p => { p with swath := true }) = s.modPins fun p => { p with swath := true } :=
      if_neg fun h => hother.elim (· h.1) (· h.2)
    rw [hrises]
    rfl

section
variable {next : TrackerState} {s : State}

/-- What a swath end leaves of the records beside the swath's own. -/
theorem swathEndTo_fields : (swathEndTo next s).meter = s.meter ∧ (swathEndTo next s).fire = s.fire ∧
    (swathEndTo next s).port = s.port ∧ (swathEndTo next s).sram = s.sram ∧ (swathEndTo next s).array = s.array ∧
    (swathEndTo next s).part = s.part ∧ (swathEndTo next s).pins = s.pins := by
  have h := swathEnd_outer s
  unfold swathEndTo
  dsimp only
  generalize swathEnd s = t at h ⊢
  exact ⟨congrArg Outer.meter h, congrArg Outer.fire h, congrArg Outer.port h, congrArg Outer.sram h,
    congrArg Outer.array h, congrArg Outer.part h, congrArg Outer.pins h⟩

theorem swathEndTo_side : (swathEndTo next s).lines = s.lines ∧ (swathEndTo next s).link = s.link ∧
    (swathEndTo next s).marks = s.marks ∧
      ∀ b : Bay, (swathEndTo next s).commits[b].flush = .running (s.profile.bays[b].idleFlush * 100000) := by
  have h := swathEnd_side s
  unfold swathEndTo
  dsimp only
  exact h

end

/-- No commit is due by its flush timer while the timer runs, whatever the tracker's state. -/
theorem commitDue_tracker {s : State} {b : Bay} (t : SwathTracker) (h : s.commits[b].flush ≠ .elapsed) :
    commitDue { s with tracker := t } b = commitDue s b := by
  have hflush (u : State) (hu : u.commits = s.commits) : flushDue u b = false := by
    rw [Bool.eq_false_iff, Ne, flushDue_iff, hu]
    exact fun hdue => h hdue.2.1
  unfold commitDue
  rw [hflush s rfl, hflush { s with tracker := t } rfl]
  rfl

/-- A swath end that hands nothing over: the tracker is shut, in state `next`, and the flush timers run. -/
def swathShut (next : TrackerState) (s : State) : State := { s with
  tracker := { state := next, number := s.tracker.number, gate := .replicate 8 false, owner := .replicate 8 none,
               limit := .stopped }
  commits := updAll s.commits fun b c => { c with flush := .running (s.profile.bays[b].idleFlush * 100000) } }

theorem swathShut_setTracker (next : TrackerState) (s : State) :
    swathShut s.tracker.state s = { swathShut next s with tracker := (swathShut s.tracker.state s).tracker } := rfl

theorem commitDue_swathShut (next : TrackerState) (s : State) (b : Bay) :
    commitDue (swathShut s.tracker.state s) b = commitDue (swathShut next s) b := by
  rw [swathShut_setTracker next]
  refine commitDue_tracker _ ?_
  simp [swathShut]

/-- With no gate OPEN, and no commit due after it, a swath end is `swathShut`. -/
theorem swathEndTo_of_closed {next : TrackerState} {s : State} (hclosed : ∀ b : Bay, s.tracker.gate[b] = false)
    (hnone : ∀ b : Bay, commitDue (swathShut next s) b = none) : swathEndTo next s = swathShut next s := by
  have hhand : forBays handover { s with tracker := { s.tracker with limit := .stopped } } =
      { s with tracker := { s.tracker with limit := .stopped } } :=
    forBays_same fun b => handover_of_closed (.inl (hclosed b))
  have hend : swathEnd s = swathShut s.tracker.state s := by
    rw [swathEnd_eq, hhand]
    exact forBays_same fun b => judge_of_not_due ((commitDue_swathShut next s b).trans (hnone b))
  unfold swathEndTo
  dsimp only
  rw [hend]
  rfl

/-- Settles O23: a handover by its gate, a swath end as `swathEnd_eq` states it, and the fall by the tracker's state. -/
theorem swathFallEndsTheSwath : Obligations.SwathFallEndsTheSwath := by
  unfold Obligations.SwathFallEndsTheSwath
  refine ⟨fun f s => rfl, fun b s => ⟨handover_of_closed, fun e hgate howner => ⟨fun hnone => ?_, fun c hc hone => ?_⟩⟩,
    fun next s => ?_, fun s hpow => ?_⟩
  · have hnone : (handed b e s).ownedBay e = none := ownedBay_of_none hnone
    rw [handover_of_open hgate howner, hnone, Option.elim_none]
    rfl
  · have hone : (handed b e s).ownedBay e = some c := ownedBay_of_one hc hone
    rw [handover_of_open hgate howner, hone, Option.elim_some]
    rfl
  · have hend := swathEnd_eq s
    dsimp only at hend ⊢
    refine ⟨hend, ?_⟩
    unfold swathEndTo
    dsimp only
    rw [hend]
  · have hexec : exec .swathFall s = .next (finish (swathFalls (s.modPins fun p => { p with swath := false }))) :=
      exec_of_powered (by decide) rfl hpow
    have hstate : (s.modPins fun p => { p with swath := false }).tracker.state = s.tracker.state := rfl
    have falls (hopen : s.tracker.state = .openSwath) : swathFalls (s.modPins fun p => { p with swath := false }) =
        swathEndTo .noSwath (s.modPins fun p => { p with swath := false }) := by
      unfold swathFalls
      rw [hstate, hopen]
    rw [hexec]
    refine ⟨fun hopen => ?_, fun hopen hclosed hnone => ?_, fun hwait => ?_, fun hidle => ?_⟩
    · have hfields := swathEndTo_fields (next := .noSwath) (s := s.modPins fun p => { p with swath := false })
      have hside := swathEndTo_side (next := .noSwath) (s := s.modPins fun p => { p with swath := false })
      have htracker := swathEndTo_tracker .noSwath (s.modPins fun p => { p with swath := false })
      rw [falls hopen]
      obtain ⟨hmeter, hfire, hport, hsram, harray, hpart, hpins⟩ := hfields
      obtain ⟨hlines, hlink, hmarks, hflush⟩ := hside
      exact ⟨rfl, htracker, hflush, hmeter, hlines, hlink, hmarks, hsram, harray, hfire, hport, hpart, hpins⟩
    · have hshut := swathEndTo_of_closed (next := .noSwath) (s := s.modPins fun p => { p with swath := false }) hclosed
      rw [falls hopen, hshut]
      · rfl
      · exact hnone
    · unfold swathFalls
      rw [hstate, hwait]
      rfl
    · unfold swathFalls
      rw [hstate, hidle]
      rfl

/-- Settles O24: a swath end, and a swath start on what it left. -/
theorem swathLimitSplitsTheSwath : Obligations.SwathLimitSplitsTheSwath := by
  unfold Obligations.SwathLimitSplitsTheSwath
  intro s hpow
  have hexec : exec .swathLimitExpiry s = .next (finish (swathSplit s)) := exec_of_powered (by decide) rfl hpow
  rw [hexec]
  refine ⟨fun n hopen hrun => ?_, fun hother => ?_⟩
  · have hout := swathEnd_outer s
    have hside := swathEnd_side s
    have hsplit : swathSplit s =
        post .swathSplit none (toLE 2 (swathStart (swathEnd s)).tracker.number.toNat) (swathStart (swathEnd s)) := by
      unfold swathSplit
      rw [hopen, hrun]
    rw [hsplit]
    generalize swathEnd s = e at hout hside ⊢
    have hprofile : e.profile = s.profile := congrArg (fun o : Outer => o.copies.getD Profile.blank) hout
    have hnumber : e.tracker.number = s.tracker.number := congrArg (fun o : Outer => o.tracker.number) hout
    obtain ⟨hlines, hlink, hmarks, -⟩ := hside
    have hpart : e.part = s.part := congrArg Outer.part hout
    have hsram : e.sram = s.sram := congrArg Outer.sram hout
    have harray : e.array = s.array := congrArg Outer.array hout
    have hfire : e.fire = s.fire := congrArg Outer.fire hout
    have hport : e.port = s.port := congrArg Outer.port hout
    have hpins : e.pins = s.pins := congrArg Outer.pins hout
    have hstart := swathStart_eq e
    have hfields := swathStart_fields e
    have hside := swathStart_side e
    rw [hprofile, hnumber] at hstart hfields
    unfold DropMeter.reset at hstart hfields
    dsimp only
    rw [← hstart]
    generalize swathStart e = t at hfields hside ⊢
    obtain ⟨htracker, hmeter, htpart, htsram, htarray, htfire, htport, htpins⟩ := hfields
    obtain ⟨htlines, htlink, htmarks, htflush⟩ := hside
    rw [htracker, hmeter]
    refine ⟨rfl, rfl, rfl, rfl, fun b => ⟨by simp, by simp, by simp, by simp, htflush b⟩, htpart.trans hpart,
      htlines.trans hlines, htlink.trans hlink, htmarks.trans hmarks, htsram.trans hsram, htarray.trans harray,
      htfire.trans hfire, htport.trans hport, htpins.trans hpins⟩
  · have hstays : swathSplit s = s := by
      unfold swathSplit
      split
      · next hopen hrun =>
        obtain h | h := hother
        · exact absurd hopen h
        · rw [hrun] at h; cases h
      · rfl
    rw [hstays]

end Sys2Proof.Machine
end

section
/-! SUPPORT. The link reset, and the entry to READY (R144, R169, R171). -/

namespace Sys2Proof.Machine

/-! ### LINK_RESET (R171) -/

/-- The link side's reset on a part whose RESET_N has been seen. -/
theorem linkSideReset_eq (s : State) : linkSideReset s = { s with
    link := { state := .idle, buffer := [], badFrame := false, byteTimer := .stopped, outstanding := none,
              overrun := false, quietTimer := .stopped,
              orphan := Vector.ofFn fun b : Bay => s.link.orphan[b] || s.lines[b].servesLink }
    port := { s.port with linkClaim := none, runCount := 0,
                          linkService := s.port.linkService.map fun l => { l with discarded := true } }
    lines := Vector.ofFn fun b : Bay => { s.lines[b] with waiting := { s.lines[b].waiting with link := none } } } := rfl

/-- Settles O16: the link side's reset, then the swath's forced end. -/
theorem linkResetAndResetN : Obligations.LinkResetAndResetN := by
  unfold Obligations.LinkResetAndResetN
  refine ⟨fun s hpow => ?_, fun s => rfl, fun v s hpow hreset => ?_⟩
  · have hexec : exec .linkReset s =
        .next (finish (swathForcedEnd (linkSideReset (s.modPins fun p => { p with resetN := true })))) :=
      exec_of_powered (by decide) rfl hpow
    rw [hexec, linkSideReset_eq]
    refine ⟨fun hclosed => ?_, fun hopen => ?_⟩
    · exact congrArg (fun t => Host.Outcome.next (finish t)) (if_neg hclosed)
    · refine ⟨congrArg (fun t => Host.Outcome.next (finish t)) (if_pos hopen), ?_⟩
      obtain ⟨hlines, hlink, -, -⟩ := swathEndTo_side (next := .waitLow)
        (s := linkSideReset (s.modPins fun p => { p with resetN := true }))
      obtain ⟨hmeter, hfire, hport, hsram, harray, hpart, hpins⟩ := swathEndTo_fields (next := .waitLow)
        (s := linkSideReset (s.modPins fun p => { p with resetN := true }))
      have htracker := swathEndTo_tracker .waitLow (linkSideReset (s.modPins fun p => { p with resetN := true }))
      exact ⟨hlink, hport, hlines, htracker, hpart, hmeter, hfire, hsram, harray, hpins⟩
  · have ignored : linkByteArrives v s = s := if_pos hreset
    refine ⟨?_, ?_, ?_⟩
    · exact (exec_of_powered (by simp) rfl hpow).trans (congrArg Host.Outcome.next ignored)
    · exact (exec_of_powered (by simp) rfl hpow).trans (congrArg Host.Outcome.next ignored)
    · exact (exec_of_powered (by simp) rfl hpow).trans (congrArg Host.Outcome.next ignored)

/-! ### READY (R169) -/

theorem onlyNotices_loadRegistry (un : List EntryIx) (hu : Bool) (s : State) :
    OnlyNotices { s with registry := (loadRegistry un hu s).registry } (loadRegistry un hu s) := by
  rw [loadRegistry_registry]
  unfold loadRegistry
  dsimp only
  split
  · exact .refl _
  · exact onlyNotices_post ..

/-- A bay whose cartridge is seen at the entry to READY begins to settle (R22, R23). -/
theorem forBays_settle (s : State) : forBays (fun b t => if t.pins.presence[b] then enterSettling b t else t) s =
    { s with ctx := updAll s.ctx fun b c =>
        if s.pins.presence[b] then { c with state := .settling, settle := .running 50000 } else c } := by
  rw [← forBays_modCtx]
  refine forBays_congr (P := fun t => t.pins = s.pins) rfl (fun b t ht => ht) fun b t ht => ?_
  rw [ht]
  split
  · rfl
  · show t = { t with ctx := upd t.ctx b fun c => c }
    rw [upd_same rfl]

/-- The entry to READY of a part whose bays are EMPTY: no commit is due there. -/
theorem enterReady_of_empty {s : State} (h : ∀ b : Bay, s.ctx[b] = BayContext.reset) : enterReady s =
    let u := post .ready none [] { s with part := .ready, copies := s.accepted, accepted := none }
    { u with
      tracker := { u.tracker with state := if u.pins.swath then .waitLow else .noSwath }
      commits := updAll u.commits fun b c => { c with flush := .running (u.profile.bays[b].idleFlush * 100000) }
      ctx := updAll u.ctx fun b c =>
        if u.pins.presence[b] then { c with state := .settling, settle := .running 50000 } else c } := by
  have hctx : (post .ready none [] { s with part := .ready, copies := s.accepted, accepted := none }).ctx = s.ctx := by
    rw [post_ctx]
  unfold enterReady
  dsimp only
  generalize post .ready none [] { s with part := .ready, copies := s.accepted, accepted := none } = u at hctx ⊢
  rw [forBays_startFlush]
  have hjudge (t : State) (ht : t.ctx = u.ctx) : forBays judge t = t := by
    refine forBays_same fun b => judge_of_not_due (commitDue_of_not_open fun hopen => ?_)
    have hsettled := hopen.1
    rw [ht, hctx, h b] at hsettled
    exact absurd hsettled (by decide)
  rw [hjudge, forBays_settle]
  · rfl
  · rfl

/-- Settles O9: in LOADING_REGISTRY the load ends in DRAIN or in READY. -/
theorem registryLoadEntersReadyOrDrain : Obligations.RegistryLoadEntersReadyOrDrain := by
  unfold Obligations.RegistryLoadEntersReadyOrDrain
  intro un hu s hpow hpart hphase
  have hexec : exec (.registryLoadDone un hu) s = .next (registryLoaded un hu s) := exec_of_powered (by simp) rfl hpow
  rw [hexec, registryLoaded, hpart, hphase]
  dsimp only
  refine ⟨fun hfail => by rw [if_pos hfail], fun hgood hempty => ?_⟩
  rw [if_neg (ne_true_of_eq_false hgood)]
  refine ⟨enterReady (loadRegistry un hu s), rfl, ?_⟩
  have hload := onlyNotices_loadRegistry un hu s
  have hregistry := loadRegistry_registry un hu s
  generalize loadRegistry un hu s = l at hload hregistry ⊢
  have hctx : l.ctx = s.ctx := hload.ctx
  have hready := enterReady_of_empty (s := l) fun b => by rw [hctx, hempty b]
  have hpost := onlyNotices_post .ready none [] { l with part := .ready, copies := l.accepted, accepted := none }
  have hnotices : (post .ready none [] { l with part := .ready, copies := l.accepted, accepted := none }).notices =
      (post .ready none [] l).notices := post_notices_congr .ready none [] rfl rfl
  dsimp only at hready
  rw [hready]
  generalize post .ready none [] { l with part := .ready, copies := l.accepted, accepted := none } = u
    at hpost hnotices ⊢
  have hcopies : u.copies = s.accepted := hpost.copies.trans hload.accepted
  have hpins : u.pins = s.pins := hpost.pins.trans hload.pins
  have htracker : u.tracker = s.tracker := hpost.tracker.trans hload.tracker
  have hcommits : u.commits = s.commits := hpost.commits.trans hload.commits
  have huctx : u.ctx = s.ctx := hpost.ctx.trans hctx
  refine ⟨hpost.part, hcopies, hpost.accepted, hnotices, ?_, fun b => ⟨?_, ?_⟩, hpost.registry.trans hregistry,
    hpost.array.trans hload.array, hpost.sram.trans hload.sram, hpost.lines.trans hload.lines,
    hpost.marks.trans hload.marks, hpost.proof.trans hload.proof, hpost.meter.trans hload.meter,
    hpost.port.trans hload.port, hpost.fire.trans hload.fire, hpost.link.trans hload.link, hpins⟩
  · dsimp only
    rw [htracker, hpins]
  · dsimp only
    rw [updAll_get, hcommits]
    rfl
  · dsimp only
    rw [updAll_get, huctx, hempty b, hpins]

end Sys2Proof.Machine
end

section
/-! SUPPORT. The routes of the carriage link, and what a routed request and a pass-through outcome do (R144 to R151). -/

namespace Sys2Proof.Machine

/-! ### Routes (R145 to R147) -/

theorem supplyBay_of_val {a : Addr24} {b : Bay} (h : b.val = a.toNat / 1024) : supplyBay a = b := by
  apply Fin.ext
  have hb := b.isLt
  unfold supplyBay
  rw [Fin.val_ofNat, ← h, Nat.mod_eq_of_lt hb]

/-- `onlyClears` byte by byte. -/
theorem onlyClears_iff : ∀ {new old : List Byte}, new.length = old.length →
    (onlyClears new old = true ↔ ∀ i : Nat, i < new.length → (new.getD i 0) &&& ~~~(old.getD i 0) = 0#8)
  | [], [], _ => by simp [onlyClears]
  | n :: ns, o :: os, h => by
    rw [onlyClears, Bool.and_eq_true, beq_iff_eq, onlyClears_iff (Nat.succ.inj h)]
    constructor
    · rintro ⟨h0, hs⟩ i hi
      cases i with
      | zero => exact h0
      | succ i => exact hs i (Nat.lt_of_succ_lt_succ hi)
    · intro hall
      exact ⟨hall 0 (Nat.succ_pos _), fun i hi => hall (i + 1) (Nat.succ_lt_succ hi)⟩

/-- R150's test of a lock-word change, as the statements write it. -/
theorem lockWritePasses_bytes {m : List Byte} {r : LinkRequest} {offset : Nat} (hm : m.length = 32)
    (hfit : offset + r.len ≤ 32) (hdata : r.data.length = r.len) : lockWritePasses m offset r.len r.data = true ↔
      28 ≤ offset ∧ ∀ i : Nat, i < r.len → (r.data.getD i 0) &&& ~~~(m.getD (offset + i) 0) = 0#8 := by
  have hslice : r.data.length = (slice m offset r.len).length := by
    rw [slice, List.length_take, List.length_drop]
    omega
  rw [lockWritePasses_iff, onlyClears_iff hslice, hdata]
  refine and_congr_right fun _ => (and_iff_right hfit).trans ?_
  refine forall_congr' fun i => forall_congr' fun hi => ?_
  have hget : (slice m offset r.len).getD i 0 = m.getD (offset + i) 0 := by
    simp [slice, List.getD_eq_getElem?_getD, hi]
  rw [hget]

section
variable {r : LinkRequest} {s : State}

theorem routeOf_of_swath (h : r.space = .swath) : routeOf s r = .swath := by
  unfold routeOf
  rw [h]

theorem routeOf_of_not_ready (h : r.space = .supply) (hpart : s.part ≠ .ready) :
    routeOf s r = .immediate .notReady := by
  unfold routeOf
  rw [h]
  exact if_pos hpart

theorem routeOf_of_past_bays (h : r.space = .supply) (hpart : s.part = .ready) (hpast : 8192 ≤ r.addr.toNat) :
    routeOf s r = .immediate .refused := by
  unfold routeOf
  rw [h]
  dsimp only
  rw [if_neg (not_not.mpr hpart), if_pos hpast]

theorem routeOf_of_past_page (h : r.space = .supply) (hpart : s.part = .ready)
    (hpast : 32 < supplyOffset r.addr + r.len) : routeOf s r = .immediate .refused := by
  unfold routeOf
  rw [h]
  dsimp only
  rw [if_neg (not_not.mpr hpart), if_pos hpast, ite_self]

theorem routeOf_of_bay (h : r.space = .supply) (hpart : s.part = .ready) (hlow : r.addr.toNat < 8192)
    (hfit : supplyOffset r.addr + r.len ≤ 32) : routeOf s r = bayRoute s.ctx[supplyBay r.addr] r := by
  unfold routeOf
  rw [h]
  dsimp only
  rw [if_neg (not_not.mpr hpart), if_neg (not_le.mpr hlow), if_neg (not_lt.mpr hfit)]

end

section
variable {c : BayContext} {r : LinkRequest}

theorem bayRoute_of_admission (h : c.state.inAdmission = true) : bayRoute c r = .immediate .notReady := by
  unfold bayRoute
  cases hc : c.state <;> rw [hc] at h <;> first | rfl | cases h

theorem bayRoute_of_faulty (h : c.state = .rejected ∨ c.state = .faulted) : bayRoute c r = bayRoute.faulty c r := by
  unfold bayRoute
  obtain h | h := h <;> rw [h]

theorem bayRoute_of_settled (h : c.state = .admitted ∨ c.state = .limited ∨ c.state = .blocked) :
    bayRoute c r = settledRoute c r := by
  unfold bayRoute
  obtain h | h | h := h <;> rw [h]

theorem settledRoute_of_write (hw : r.write = true) (hpage : 3 ≤ supplyPage r.addr) : settledRoute c r =
    if linkWritePasses (c.marks.getD []) (supplyPage r.addr) (supplyOffset r.addr) r.len r.data then .passWrite
    else .immediate .refused := by
  unfold settledRoute
  dsimp only
  rw [if_neg (by simp [hw]), if_neg (by omega), hw]
  rfl

end

/-- Settles O37: the space, the part, the address, and the bay's row. -/
theorem routeFollowsTheTables : Obligations.RouteFollowsTheTables := by
  unfold Obligations.RouteFollowsTheTables
  refine fun r s => ⟨routeOf_of_swath, routeOf_of_not_ready, routeOf_of_past_bays, fun hspace hpart hlow =>
    ⟨routeOf_of_past_page hspace hpart, fun hfit b hb => ?_⟩⟩
  obtain rfl : b = supplyBay r.addr := (supplyBay_of_val hb).symm
  rw [routeOf_of_bay hspace hpart hlow hfit]
  generalize s.ctx[supplyBay r.addr] = c
  refine ⟨fun hempty => by rw [bayRoute, hempty], bayRoute_of_admission, fun hfault => ?_, fun hsettled => ?_⟩
  · rw [bayRoute_of_faulty hfault, bayRoute.faulty]
    refine ⟨fun hpage => if_pos hpage, fun hpage hw => ?_, fun hpage hw => ?_⟩
    · have hpage : ¬2 ≤ supplyPage r.addr := not_le.mpr hpage
      rw [if_neg hpage, if_pos hw]
    · have hpage : ¬2 ≤ supplyPage r.addr := not_le.mpr hpage
      rw [if_neg hpage, if_neg (ne_true_of_eq_false hw)]
      cases c.identity <;> rfl
  · rw [bayRoute_of_settled hsettled]
    refine ⟨fun hpage hw => if_pos ⟨hpage, hw⟩, fun hpage hw => ?_, fun hpage hw => ?_, fun m hm hlen hw hdata =>
      ⟨fun hpage => ?_, fun hpage => ?_⟩⟩
    · have hpage : supplyPage r.addr < 3 := hpage
      unfold settledRoute
      dsimp only
      rw [if_neg (by simp [hw]), if_pos hpage]
    · have hpage : 4 ≤ supplyPage r.addr := hpage
      unfold settledRoute
      dsimp only
      rw [if_neg (by omega), if_neg (by omega), if_neg (ne_true_of_eq_false hw)]
    · have hpage : supplyPage r.addr = 3 := hpage
      rw [settledRoute_of_write hw (by omega), hm, hpage, linkWritePasses, if_pos rfl, Option.getD_some]
      exact if_congr (lockWritePasses_bytes hlen hfit hdata) rfl rfl
    · have hpage : 4 ≤ supplyPage r.addr := hpage
      rw [settledRoute_of_write hw (by omega), hm, Option.getD_some]
      refine if_congr (linkWritePasses_iff.trans ⟨fun h => ?_, fun h => .inr ⟨hpage, h⟩⟩) rfl rfl
      obtain ⟨hthree, -⟩ | ⟨-, hbit⟩ := h
      · omega
      · exact hbit

/-! ### Answers and claims (R143, R148 to R151) -/

section
variable {x : LinkTransaction} {s : State}

theorem respond_of_open (st : LinkStatus) (d : List Byte) (hx : s.link.outstanding = some x) (hopen : x.response = none) :
    respond st d s = { s with link := { s.link with
      state := .responding
      outstanding := some { x with waitsOrphan := false, response := some { status := st, data := d } } } } := by
  unfold respond
  rw [hx]
  exact if_pos hopen

theorem respond_of_answered (st : LinkStatus) (d : List Byte)
    (h : ∀ x : LinkTransaction, s.link.outstanding = some x → x.response ≠ none) : respond st d s = s := by
  unfold respond
  split
  · next x hx => exact if_neg (h x hx)
  · rfl

theorem answerNow_of_plain {r : LinkRequest} {st : LinkStatus} (hx : s.link.outstanding = some x)
    (hopen : x.response = none) (hplain : st ≠ .refused ∨ r.write = false) : answerNow r st s =
      { s with link := { s.link with
        state := .responding
        outstanding := some { x with waitsOrphan := false, route := .immediate st,
                                     response := some { status := st, data := [] } } } } := by
  have hreport : (if st = .refused then reportRefused r s else s) = s := by
    split
    · next h =>
      exact if_neg (ne_true_of_eq_false (hplain.resolve_left (not_not.mpr h)))
    · rfl
  unfold answerNow
  dsimp only
  rw [hreport, respond_of_open (x := { x with route := .immediate st }) st [] (by rw [modLink_link]; dsimp only; rw [hx]; rfl) hopen]
  rfl

/-- A refused write is reported, and its transaction answered (R151). -/
theorem answerNow_of_refused {r : LinkRequest} (hx : s.link.outstanding = some x) (hopen : x.response = none)
    (hw : r.write = true) : answerNow r .refused s =
      { post .refusedWrite (if r.addr.toNat < 8192 then some (supplyBay r.addr) else none)
          (0x01#8 :: toLE 3 r.addr.toNat) s with
        link := { s.link with
          state := .responding
          outstanding := some { x with waitsOrphan := false, route := .immediate .refused,
                                       response := some { status := .refused, data := [] } } } } := by
  have hreport : reportRefused r s = post .refusedWrite
      (if r.addr.toNat < 8192 then some (supplyBay r.addr) else none) (0x01#8 :: toLE 3 r.addr.toNat) s := if_pos hw
  have hlink : (reportRefused r s).link = s.link := by rw [hreport, post_link]
  unfold answerNow
  dsimp only
  rw [if_pos rfl, respond_of_open (x := { x with route := .immediate .refused }) .refused [] (by rw [modLink_link, hlink]; dsimp only; rw [hx]; rfl) hopen,
    ← hreport]
  generalize reportRefused r s = t at hlink ⊢
  unfold State.modLink
  dsimp only
  rw [hlink]

end

section
variable {r : LinkRequest} {s : State}

/-- A claim that passes the screen of its bay waits on the bay's line (R149, R150). -/
theorem makeLinkClaim_of_passes (hstate : s.ctx[supplyBay r.addr].state ≠ .empty)
    (hpass : screenPasses s.ctx[supplyBay r.addr] r.claim = true) : makeLinkClaim r s =
      arbitrate (supplyBay r.addr) { s with lines := upd s.lines (supplyBay r.addr) fun u =>
        { u with waiting := { u.waiting with link := some r.claim } } } := by
  unfold makeLinkClaim
  rw [claimArrives_of_passes hstate hpass]
  rfl

/-- Only a settled bay passes a request through. -/
theorem settled_of_pass (h : routeOf s r = .passRead ∨ routeOf s r = .passWrite) :
    s.ctx[supplyBay r.addr].state ≠ .empty := by
  intro hempty
  have hbay : bayRoute s.ctx[supplyBay r.addr] r = .immediate .absent := by rw [bayRoute, hempty]
  unfold routeOf at h
  rw [hbay] at h
  repeat' split at h
  all_goals obtain h | h := h <;> cases h

end

/-- Settles O38: each route by what `routeRequest` makes of it. -/
theorem routedRequestServedOrAnswered : Obligations.RoutedRequestServedOrAnswered := by
  unfold Obligations.RoutedRequestServedOrAnswered
  refine fun r x s hx hopen => ⟨fun hroute => ?_, fun b img hroute hb hpage => ?_, fun st hroute hplain => ?_,
    fun hroute hw => ?_, fun b hb hroute => ⟨fun horphan => ?_, fun hfree hpass => ?_⟩⟩
  · rw [routeRequest, hroute]
  · have himage : imagePage s.ctx[supplyBay r.addr] (supplyPage r.addr) = some img := by
      subst hb
      have pageIs {n : Nat} (h : r.addr.toNat % 1024 / 32 = n) : supplyPage r.addr = n := h
      obtain ⟨hp, id, hid, rfl⟩ | ⟨hp, id, hid, rfl⟩ | ⟨hp, hlevel⟩ | ⟨hp, hmarks⟩ := hpage
      · rw [pageIs hp, imagePage, hid]; rfl
      · rw [pageIs hp, imagePage, hid]; rfl
      · rw [pageIs hp, imagePage, hlevel]
      · rw [pageIs hp, imagePage, hmarks]
    rw [routeRequest, hroute]
    dsimp only
    rw [himage, respond_of_open _ _ hx hopen]
    rfl
  · rw [routeRequest, hroute]
    exact (answerNow_of_plain hx hopen hplain).trans rfl
  · rw [routeRequest, hroute]
    exact (answerNow_of_refused hx hopen hw).trans rfl
  · have hpass : routeRequest r s = passThrough r s := by
      obtain h | h := hroute <;> rw [routeRequest, h]
    subst hb
    rw [hpass, passThrough, if_pos horphan, State.modLink, hx]
    rfl
  · have hpassed : routeRequest r s = passThrough r s := by
      obtain h | h := hroute <;> rw [routeRequest, h]
    subst hb
    rw [hpassed, passThrough, if_neg (ne_true_of_eq_false hfree)]
    exact makeLinkClaim_of_passes (settled_of_pass hroute) hpass

end Sys2Proof.Machine
end

section
/-! SUPPORT. The outcome of a pass-through transaction: the lock image, the orphan, and the answer (R144, R149, R150). -/

namespace Sys2Proof.Machine

/-! ### Bytes written over bytes -/

theorem overwrite_length {l d : List Byte} {off : Nat} (h : off + d.length ≤ l.length) :
    (overwrite l off d).length = l.length := by
  unfold overwrite
  simp only [List.length_append, List.length_take, List.length_drop]
  omega

theorem overwrite_getD {l d : List Byte} {off : Nat} (h : off + d.length ≤ l.length) (i : Nat) (v : Byte) :
    (overwrite l off d).getD i v = if off ≤ i ∧ i < off + d.length then d.getD (i - off) v else l.getD i v := by
  have htake : (l.take off).length = off := by
    rw [List.length_take]
    omega
  unfold overwrite
  simp only [List.getD_eq_getElem?_getD, List.append_assoc]
  by_cases hlow : i < off
  · rw [if_neg (by omega), List.getElem?_append_left (by omega), List.getElem?_take_of_lt hlow]
  · rw [List.getElem?_append_right (by omega), htake]
    by_cases hin : i < off + d.length
    · rw [if_pos ⟨by omega, hin⟩, List.getElem?_append_left (by omega)]
    · rw [if_neg (by omega), List.getElem?_append_right (by omega), List.getElem?_drop]
      congr 2
      omega

theorem andBytes_length : ∀ {a b : List Byte}, a.length = b.length → (andBytes a b).length = b.length
  | [], [], _ => rfl
  | x :: a, y :: b, h => by
    rw [andBytes, List.length_cons, List.length_cons, andBytes_length (Nat.succ.inj h)]

theorem andBytes_getD : ∀ {a b : List Byte}, a.length = b.length → ∀ i : Nat,
    (andBytes a b).getD i 0 = a.getD i 0 &&& b.getD i 0
  | [], [], _, i => by simp [andBytes]
  | x :: a, y :: b, h, i => by
    cases i with
    | zero => rfl
    | succ i => exact andBytes_getD (Nat.succ.inj h) i

/-- The lock image after a STORE's bytes have been ANDed into it (R150). -/
theorem lockImage_getD {m d : List Byte} {off : Nat} (h : off + d.length ≤ m.length) :
    (overwrite m off (andBytes (slice m off d.length) d)).length = m.length ∧
      ∀ i : Nat, (overwrite m off (andBytes (slice m off d.length) d)).getD i 0 =
        if off ≤ i ∧ i < off + d.length then m.getD i 0 &&& d.getD (i - off) 0 else m.getD i 0 := by
  have hslice : (slice m off d.length).length = d.length := by
    rw [slice, List.length_take, List.length_drop]
    omega
  have hand := andBytes_length hslice
  refine ⟨overwrite_length (by rwa [hand]), fun i => ?_⟩
  rw [overwrite_getD (by rwa [hand]), hand]
  split
  · next hin =>
    have hget : (slice m off d.length).getD (i - off) 0 = m.getD i 0 := by
      have hi : i - off < d.length := by omega
      have hsum : off + (i - off) = i := by omega
      simp [slice, List.getD_eq_getElem?_getD, hi, hsum]
    rw [andBytes_getD hslice, hget]
  · rfl

/-! ### The lock image's update (R150) -/

section
variable {b : Bay} {c : Claim} {o : LineOutcome} {s : State}

/-- The update moves the contexts alone, and no bay but the claim's. -/
theorem updateLock_rest : updateLock b c o s = { s with ctx := (updateLock b c o s).ctx } ∧
    ∀ a : Bay, a ≠ b → (updateLock b c o s).ctx[a] = s.ctx[a] := by
  unfold updateLock
  repeat' split
  · refine ⟨rfl, fun a ha => ?_⟩
    exact upd_ne _ _ _ _ ha
  · exact ⟨rfl, fun _ _ => rfl⟩
  · exact ⟨rfl, fun _ _ => rfl⟩

theorem updateLock_of_other (h : (∀ d, o ≠ .success d) ∨ c.command ≠ .store ∨ c.page ≠ 3) : updateLock b c o s = s := by
  unfold updateLock
  split
  · next d ho hc =>
    refine if_neg fun hpage => ?_
    obtain h | h | h := h
    · exact h _ rfl
    · exact h hc
    · exact h hpage
  · rfl

theorem updateLock_of_lock {d : List Byte} (ho : o = .success d) (hc : c.command = .store) (hpage : c.page = 3) :
    updateLock b c o s = s.modCtx b fun x => { x with
      marks := x.marks.map fun img => overwrite img c.offset (andBytes (slice img c.offset c.length) c.data) } := by
  unfold updateLock
  rw [ho, hc]
  exact if_pos hpage

end

/-! ### An orphan's end (R144, R149) -/

section
variable {b : Bay} {s : State}

theorem waitingFor_of_none {p : LinkPort} (h : ∀ x : LinkTransaction, p.outstanding = some x → x.waitsOrphan = false) :
    p.waitingFor b = none := by
  unfold LinkPort.waitingFor
  cases hx : p.outstanding with
  | none => rfl
  | some x =>
    dsimp only
    cases x.request with
    | none => rfl
    | some r =>
      dsimp only
      rw [h x hx]
      rfl

theorem waitingFor_of_waiting {p : LinkPort} {x : LinkTransaction} {r : LinkRequest} (hx : p.outstanding = some x)
    (hwaits : x.waitsOrphan = true) (hr : x.request = some r) (hb : supplyBay r.addr = b) : p.waitingFor b = some r := by
  unfold LinkPort.waitingFor
  rw [hx]
  dsimp only
  rw [hr]
  exact if_pos (by simp [hwaits, hb])

theorem orphanEnds_of_none (h : s.link.waitingFor b = none) :
    orphanEnds b s = { s with link := { s.link with orphan := upd s.link.orphan b fun _ => false } } := by
  unfold orphanEnds
  rw [h]
  rfl

/-- The orphan's mark is clear, and the transaction that waited for it waits no longer. -/
def orphanFreed (b : Bay) (x : LinkTransaction) (s : State) : State := { s with
  link := { s.link with orphan := upd s.link.orphan b fun _ => false, outstanding := some { x with waitsOrphan := false } } }

/-- The transaction that waited makes its claim, or is answered REFUSED. -/
theorem orphanEnds_of_waiting {x : LinkTransaction} {r : LinkRequest} (hx : s.link.outstanding = some x)
    (h : s.link.waitingFor b = some r) : orphanEnds b s =
      if r.write && !linkWritePasses (s.ctx[b].marks.getD []) (supplyPage r.addr) (supplyOffset r.addr) r.len r.data then
        answerNow r .refused (orphanFreed b x s)
      else makeLinkClaim r (orphanFreed b x s) := by
  have hout : s.link.outstanding.map (fun t => { t with waitsOrphan := false }) =
      some { x with waitsOrphan := false } := by rw [hx]; rfl
  unfold orphanEnds
  dsimp only
  rw [h]
  dsimp only [State.modLink]
  rw [hout]
  rfl

end

/-- The answer of a pass-through transaction (R149, R150). -/
theorem answerOutcome_of_open {o : LineOutcome} {x : LinkTransaction} {s : State} (hx : s.link.outstanding = some x)
    (hopen : x.response = none) : answerOutcome o s = { s with link := { s.link with
      state := .responding
      outstanding := some { x with waitsOrphan := false, response := some { status := o.status, data := o.data } } } } :=
  respond_of_open _ _ hx hopen

/-- Settles O39: the lock image's update, then the answer to the transaction, or the orphan's end. -/
theorem passThroughAnsweredByItsOutcome : Obligations.PassThroughAnsweredByItsOutcome := by
  unfold Obligations.PassThroughAnsweredByItsOutcome
  intro b c o s
  obtain ⟨hrest, hothers⟩ := updateLock_rest (b := b) (c := c) (o := o) (s := s)
  refine ⟨updateLock b c o s, hrest, hothers, fun m d ho hc hpage hfit hlen hm hm32 => ?_, fun h => ?_,
    fun x hfree hx hopen => ?_, fun horphan => ⟨fun hnone => ?_, fun x r hx hwaits hr hb hopen => ⟨fun hpasses hscreen hstate => ?_,
      fun hfails hlow => ?_⟩⟩⟩
  · obtain ⟨hlength, hbytes⟩ := lockImage_getD (m := m) (d := c.data) (off := c.offset) (by omega)
    refine ⟨_, ?_, hlength.trans hm32, fun i _ => hbytes i⟩
    rw [updateLock_of_lock ho hc hpage, modCtx_ctx, upd_self, hm, hlen]
    rfl
  · rw [updateLock_of_other h]
  all_goals
    have houtcome : linkOutcome b c o s =
        if (updateLock b c o s).link.orphan[b] then orphanEnds b (updateLock b c o s)
        else answerOutcome o (updateLock b c o s) := rfl
    rw [houtcome]
    generalize updateLock b c o s = u at *
    have hlink : u.link = s.link := by rw [hrest]
    have hlines : u.lines = s.lines := by rw [hrest]
    rw [hlink]
  · rw [hfree, if_neg (by decide), answerOutcome_of_open (by rw [hlink]; exact hx) hopen, hlink]
    cases o <;> rfl
  · rw [if_pos horphan, orphanEnds_of_none (by rw [hlink]; exact waitingFor_of_none hnone), hlink]
  all_goals
    subst hb
    rw [if_pos horphan, orphanEnds_of_waiting (by rw [hlink]; exact hx)
      (by rw [hlink]; exact waitingFor_of_waiting hx hwaits hr rfl)]
  · have htest : (r.write && !linkWritePasses (u.ctx[supplyBay r.addr].marks.getD []) (supplyPage r.addr)
        (supplyOffset r.addr) r.len r.data) = false := by
      obtain hread | hpass := hpasses
      · rw [hread, Bool.false_and]
      · have hpass : linkWritePasses (u.ctx[supplyBay r.addr].marks.getD []) (supplyPage r.addr)
            (supplyOffset r.addr) r.len r.data = true := hpass
        rw [hpass, Bool.not_true, Bool.and_false]
    rw [htest, if_neg (by decide), makeLinkClaim_of_passes (s := orphanFreed (supplyBay r.addr) x u) hstate hscreen,
      ← hlink, ← hlines]
    rfl
  · rw [not_or, Bool.not_eq_false, Bool.not_eq_true] at hfails
    obtain ⟨hw, hfail⟩ := hfails
    have hfail : linkWritePasses (u.ctx[supplyBay r.addr].marks.getD []) (supplyPage r.addr)
        (supplyOffset r.addr) r.len r.data = false := hfail
    rw [hw, hfail, if_pos (by decide), answerNow_of_refused (x := { x with waitsOrphan := false }) rfl hopen hw,
      if_pos hlow, orphanFreed, post_setLink, ← hlink]

end Sys2Proof.Machine
end

section
/-! SUPPORT. Bytes and frames of the carriage link (R139, R140, R142, R181). -/

namespace Sys2Proof.Machine

/-! ### Headers and sizes (R139, R181) -/

/-- The header of a READ, and of a WRITE. -/
abbrev ReadHeader (h : Byte) : Prop := h = 0xC0#8 ∨ h = 0xC2#8
abbrev WriteHeader (h : Byte) : Prop := h = 0xC1#8 ∨ h = 0xC3#8

/-- The space a defined header names. -/
def headerSpace (h : Byte) : Space := if h = 0xC2#8 ∨ h = 0xC3#8 then .supply else .swath

theorem headerOf_of_read {h : Byte} (hr : ReadHeader h) : headerOf h = some (false, headerSpace h) := by
  obtain rfl | rfl := hr <;> rfl

theorem headerOf_of_write {h : Byte} (hw : WriteHeader h) : headerOf h = some (true, headerSpace h) := by
  obtain rfl | rfl := hw <;> rfl

theorem headerOf_of_undefined {h : Byte} (hw : ¬WriteHeader h) (hr : ¬ReadHeader h) : headerOf h = none := by
  simp only [WriteHeader, ReadHeader, not_or] at hw hr
  unfold headerOf
  rw [if_neg hr.1, if_neg hw.1, if_neg hr.2, if_neg hw.2]

theorem ReadHeader.not_write {h : Byte} (hr : ReadHeader h) : ¬WriteHeader h := by
  obtain rfl | rfl := hr <;> simp [WriteHeader]

theorem header_cases (h : Byte) : WriteHeader h ∨ ReadHeader h ∨ (¬WriteHeader h ∧ ¬ReadHeader h) := by
  by_cases hw : WriteHeader h
  · exact .inl hw
  · by_cases hr : ReadHeader h
    · exact .inr (.inl hr)
    · exact .inr (.inr ⟨hw, hr⟩)

theorem headerOf_isNone_iff {h : Byte} : (headerOf h).isNone = true ↔ ¬WriteHeader h ∧ ¬ReadHeader h := by
  obtain hw | hr | ⟨hw, hr⟩ := header_cases h
  · simp [headerOf_of_write hw, hw]
  · simp [headerOf_of_read hr, hr]
  · simp [headerOf_of_undefined hw hr, hw, hr]

/-- One byte of a list as a field. -/
theorem field_one {l : List Byte} {i : Nat} (h : i < l.length) : field l i 1 = (l.getD i 0).toNat := by
  rw [field_succ 0 h, field_zero, List.getD_eq_getElem _ _ h]
  rfl

section
variable {buf : List Byte}

theorem frameSize_of_short (h : buf.length < 5) : frameSize buf = none := by
  unfold frameSize
  rw [List.getElem?_eq_none (by omega)]
  cases headerOf (buf.headD 0) with
  | none => rfl
  | some p => obtain ⟨_ | _, _⟩ := p <;> rfl

theorem frameSize_of_read (hr : ReadHeader (buf.headD 0)) (h : 5 ≤ buf.length) : frameSize buf = some 7 := by
  unfold frameSize
  rw [headerOf_of_read hr, List.getElem?_eq_getElem (by omega)]

theorem frameSize_of_write (hw : WriteHeader (buf.headD 0)) (h : 5 ≤ buf.length) :
    frameSize buf = some (8 + (buf.getD 4 0).toNat) := by
  have hget : buf[4].toNat = (buf.getD 4 0).toNat := by rw [List.getD_eq_getElem _ _ (by omega)]
  unfold frameSize
  rw [headerOf_of_write hw, List.getElem?_eq_getElem (by omega)]
  dsimp only
  rw [hget]
  congr 1
  omega

theorem frameSize_of_undefined (hw : ¬WriteHeader (buf.headD 0)) (hr : ¬ReadHeader (buf.headD 0)) :
    frameSize buf = none := by
  unfold frameSize
  rw [headerOf_of_undefined hw hr]

/-- A frame is whole. -/
theorem frameSize_iff : frameSize buf = some buf.length ↔
    (ReadHeader (buf.headD 0) ∧ buf.length = 7) ∨
      (WriteHeader (buf.headD 0) ∧ 5 ≤ buf.length ∧ buf.length = 8 + (buf.getD 4 0).toNat) := by
  obtain hshort | hlong := lt_or_ge buf.length 5
  · rw [frameSize_of_short hshort]
    refine ⟨nofun, fun h => ?_⟩
    obtain ⟨-, hlen⟩ | ⟨-, hlen, -⟩ := h <;> omega
  · obtain hw | hr | ⟨hw, hr⟩ := header_cases (buf.headD 0)
    · have hr : ¬ReadHeader (buf.headD 0) := fun hr => hr.not_write hw
      rw [frameSize_of_write hw hlong, Option.some.injEq]
      simp only [hw, hr, hlong, true_and, false_and, false_or]
      exact eq_comm
    · rw [frameSize_of_read hr hlong, Option.some.injEq]
      simp only [hr.not_write, hr, true_and, false_and, or_false]
      exact eq_comm
    · rw [frameSize_of_undefined hw hr]
      simp only [hw, hr, false_and, or_false, reduceCtorEq]

/-- A byte makes the frame's size unknowable. -/
theorem spoils_iff : spoils buf = true ↔
    (buf.length = 1 ∧ ¬WriteHeader (buf.headD 0) ∧ ¬ReadHeader (buf.headD 0)) ∨
      (buf.length = 5 ∧ 63 < (buf.getD 4 0).toNat) := by
  unfold spoils
  rw [Bool.or_eq_true, Bool.and_eq_true, Bool.and_eq_true, beq_iff_eq, beq_iff_eq, decide_eq_true_eq, headerOf_isNone_iff]
  refine or_congr_right (and_congr_right fun hlen => ?_)
  rw [field_one (by omega)]

theorem requestOf_of_header (hlen : 5 ≤ buf.length) (h : ReadHeader (buf.headD 0) ∨ WriteHeader (buf.headD 0)) :
    requestOf buf = { write := decide (WriteHeader (buf.headD 0)), space := headerSpace (buf.headD 0),
                      addr := BitVec.ofNat 24 (field buf 1 3), len := (buf.getD 4 0).toNat + 1,
                      data := if WriteHeader (buf.headD 0) then (buf.drop 5).take ((buf.getD 4 0).toNat + 1) else [] } := by
  unfold requestOf
  dsimp only
  rw [field_one (by omega)]
  obtain hr | hw := h
  · rw [headerOf_of_read hr, if_neg hr.not_write, decide_eq_false hr.not_write]
    rfl
  · rw [headerOf_of_write hw, if_pos hw, decide_eq_true hw]
    rfl

end

/-! ### A byte by what it makes of the frame (R139, R140) -/

section
variable {v : Byte} {s : State}

theorem linkByteArrives_of_taking (hreset : s.pins.resetN = false)
    (h : s.link.state = .receiving ∨ (s.link.state = .idle ∧ s.link.overrun = false)) :
    linkByteArrives v s = frameByte v s := by
  unfold linkByteArrives
  rw [if_neg (ne_true_of_eq_false hreset)]
  obtain h | ⟨h, hmark⟩ := h
  · rw [h]
  · rw [h]
    exact if_neg (ne_true_of_eq_false hmark)

theorem frameByte_of_marked (h : s.link.badFrame = true) :
    frameByte v s = s.modLink fun p => { p with byteTimer := .running 1000 } := if_pos h

theorem frameByte_of_spoiling (h : s.link.badFrame = false) (hspoils : spoils (s.link.buffer ++ [v]) = true) :
    frameByte v s = s.modLink fun p => { p with state := .receiving, buffer := s.link.buffer ++ [v], badFrame := true,
                                                byteTimer := .running 1000 } := by
  unfold frameByte
  rw [if_neg (ne_true_of_eq_false h)]
  exact if_pos hspoils

theorem frameByte_of_joining (h : s.link.badFrame = false) (hspoils : ¬spoils (s.link.buffer ++ [v]) = true)
    (hsize : frameSize (s.link.buffer ++ [v]) ≠ some (s.link.buffer ++ [v]).length) :
    frameByte v s = s.modLink fun p => { p with state := .receiving, buffer := s.link.buffer ++ [v],
                                                byteTimer := .running 1000 } := by
  unfold frameByte
  rw [if_neg (ne_true_of_eq_false h)]
  dsimp only
  rw [if_neg hspoils, if_neg hsize]
  rfl

theorem frameByte_of_whole (h : s.link.badFrame = false) (hspoils : ¬spoils (s.link.buffer ++ [v]) = true)
    (hsize : frameSize (s.link.buffer ++ [v]) = some (s.link.buffer ++ [v]).length) :
    frameByte v s = if frameCrcGood (s.link.buffer ++ [v]) then acceptRequest (requestOf (s.link.buffer ++ [v])) s
      else answerBadFrame s := by
  unfold frameByte
  rw [if_neg (ne_true_of_eq_false h)]
  dsimp only
  rw [if_neg hspoils, if_pos hsize]

theorem frameCrcGood_iff {buf : List Byte} : frameCrcGood buf = true ↔
    toLE 2 (crc16 (buf.take (buf.length - 2))).toNat = buf.drop (buf.length - 2) := decide_eq_true_iff

end

/-- Settles O33: each fate of a byte by the tests on the buffer it makes. -/
theorem linkByteJoinsOrEndsTheFrame : Obligations.LinkByteJoinsOrEndsTheFrame := by
  unfold Obligations.LinkByteJoinsOrEndsTheFrame
  intro v c s hpow hreset hc
  rw [exec_linkByte_of_powered hpow hc]
  have taken (h : s.link.state = .receiving ∨ (s.link.state = .idle ∧ s.link.overrun = false)) :=
    linkByteArrives_of_taking (v := v) hreset h
  refine ⟨fun htakes hmark => ?_, fun htakes hclear hspoilt => ?_, fun htakes hclear hspoilt hwhole => ?_,
    fun htakes hclear hspoilt hwhole hgood => ?_, fun htakes hclear hspoilt hwhole hgood => ?_, fun hidle hover => ?_⟩
  · rw [taken htakes, frameByte_of_marked hmark]
    rfl
  · rw [taken htakes, frameByte_of_spoiling hclear (spoils_iff.mpr hspoilt)]
    rfl
  · rw [taken htakes, frameByte_of_joining hclear (mt spoils_iff.mp hspoilt) (mt frameSize_iff.mp hwhole)]
    rfl
  · rw [taken htakes, frameByte_of_whole hclear (mt spoils_iff.mp hspoilt) (frameSize_iff.mpr hwhole),
      if_neg (mt frameCrcGood_iff.mp hgood)]
    rfl
  · have hheader : ReadHeader ((s.link.buffer ++ [v]).headD 0) ∨ WriteHeader ((s.link.buffer ++ [v]).headD 0) :=
      hwhole.imp And.left And.left
    have hlen : 5 ≤ (s.link.buffer ++ [v]).length := by
      obtain ⟨-, hlen⟩ | ⟨-, hlen, -⟩ := hwhole <;> omega
    rw [taken htakes, frameByte_of_whole hclear (mt spoils_iff.mp hspoilt) (frameSize_iff.mpr hwhole),
      if_pos (frameCrcGood_iff.mpr hgood), requestOf_of_header hlen hheader]
    rfl
  · rw [linkByteArrives_of_idle_marked hreset hidle hover]
    rfl

end Sys2Proof.Machine
end

section
/-! SUPPORT. A request's frame, byte by byte (R139, R181). -/

namespace Sys2Proof.Machine

theorem leNat_toLE : ∀ n v : Nat, leNat (toLE n v) = v % 256 ^ n
  | 0, v => by rw [toLE, leNat, Nat.pow_zero, Nat.mod_one]
  | n + 1, v => by
    rw [toLE, leNat, leNat_toLE n, Nat.pow_succ', Nat.mod_mul, BitVec.toNat_ofNat]

section
variable (r : LinkRequest)

theorem header_write_iff : WriteHeader r.header ↔ r.write = true := by
  unfold LinkRequest.header
  cases r.write <;> cases r.space <;> decide

theorem header_read_iff : ReadHeader r.header ↔ r.write = false := by
  unfold LinkRequest.header
  cases r.write <;> cases r.space <;> decide

theorem headerSpace_header : headerSpace r.header = r.space := by
  unfold LinkRequest.header
  cases r.write <;> cases r.space <;> rfl

/-- The frame less its CRC. -/
def LinkRequest.body : List Byte := r.header :: (toLE 3 r.addr.toNat ++ toLE 1 (r.len - 1) ++ r.data)

theorem frame_eq : r.frame = r.body ++ toLE 2 (crc16 r.body).toNat := rfl

theorem body_length : r.body.length = 5 + r.data.length := by
  unfold LinkRequest.body
  rw [List.length_cons, List.length_append, List.length_append, toLE_length, toLE_length]
  omega

theorem frame_length : r.frame.length = 7 + r.data.length := by
  rw [frame_eq, List.length_append, toLE_length, body_length]
  omega

theorem frame_crc_good : frameCrcGood r.frame = true := by
  have hlen : r.frame.length - 2 = r.body.length := by rw [frame_length, body_length]; omega
  rw [frameCrcGood_iff, hlen, frame_eq, List.take_left, List.drop_left]

theorem frame_head (k : Nat) : (r.frame.take (k + 1)).headD 0 = r.header := rfl

variable {r}

theorem frame_len_byte (hlow : 1 ≤ r.len) (hhigh : r.len ≤ 64) : (r.frame.getD 4 0).toNat + 1 = r.len := by
  have hbyte : r.frame.getD 4 0 = BitVec.ofNat 8 (r.len - 1) := rfl
  rw [hbyte, BitVec.toNat_ofNat]
  omega

theorem frame_addr : BitVec.ofNat 24 (field r.frame 1 3) = r.addr := by
  have hfield : field r.frame 1 3 = leNat (toLE 3 r.addr.toNat) := rfl
  rw [hfield, leNat_toLE]
  have haddr := r.addr.isLt
  rw [Nat.mod_eq_of_lt (by omega), BitVec.ofNat_toNat, BitVec.setWidth_eq]

theorem frame_data (hlen : r.data.length = r.len) : (r.frame.drop 5).take r.len = r.data := by
  have hdrop : r.frame.drop 5 = r.data ++ toLE 2 (crc16 r.body).toNat := rfl
  rw [hdrop, ← hlen, List.take_left]

theorem requestOf_frame (hlow : 1 ≤ r.len) (hhigh : r.len ≤ 64)
    (hdata : r.data.length = if r.write then r.len else 0) : requestOf r.frame = r := by
  have hheader : ReadHeader (r.frame.headD 0) ∨ WriteHeader (r.frame.headD 0) := by
    have hhead : r.frame.headD 0 = r.header := rfl
    rw [hhead, header_read_iff, header_write_iff]
    cases r.write <;> simp
  have hhead : r.frame.headD 0 = r.header := rfl
  rw [requestOf_of_header (by rw [frame_length]; omega) hheader, hhead, headerSpace_header, frame_addr,
    frame_len_byte hlow hhigh]
  cases hw : r.write with
  | false =>
    have hnot : ¬WriteHeader r.header := by rw [header_write_iff, hw]; decide
    rw [hw] at hdata
    have hnil : r.data = [] := List.length_eq_zero_iff.mp hdata
    rw [if_neg hnot, decide_eq_false hnot, ← hnil, ← hw]
  | true =>
    have hwrite : WriteHeader r.header := by rw [header_write_iff, hw]
    rw [hw, if_pos rfl] at hdata
    rw [if_pos hwrite, decide_eq_true hwrite, frame_data hdata, ← hw]

/-- No part of a request's frame spoils the frame. -/
theorem frame_not_spoiling (hlow : 1 ≤ r.len) (hhigh : r.len ≤ 64) {k : Nat} (hk : k < r.frame.length) :
    ¬spoils (r.frame.take (k + 1)) = true := by
  have hlen : (r.frame.take (k + 1)).length = k + 1 := by
    rw [List.length_take]
    omega
  rw [spoils_iff, hlen, frame_head, header_write_iff, header_read_iff]
  rintro (⟨-, hw, hr⟩ | ⟨hfive, hlong⟩)
  · exact hr (Bool.eq_false_iff.mpr hw)
  · have hget : (r.frame.take (k + 1)).getD 4 0 = r.frame.getD 4 0 := by
      rw [List.getD_eq_getElem?_getD, List.getElem?_take_of_lt (by omega), ← List.getD_eq_getElem?_getD]
    have hbyte := frame_len_byte hlow hhigh
    rw [hget] at hlong
    omega

/-- A request's frame is whole at its last byte and not before. -/
theorem frame_whole_iff (hlow : 1 ≤ r.len) (hhigh : r.len ≤ 64) (hdata : r.data.length = if r.write then r.len else 0)
    {k : Nat} (hk : k < r.frame.length) :
    frameSize (r.frame.take (k + 1)) = some (r.frame.take (k + 1)).length ↔ k + 1 = r.frame.length := by
  have hlen : (r.frame.take (k + 1)).length = k + 1 := by
    rw [List.length_take]
    omega
  have hget (h : 5 ≤ k + 1) : (r.frame.take (k + 1)).getD 4 0 = r.frame.getD 4 0 := by
    rw [List.getD_eq_getElem?_getD, List.getElem?_take_of_lt (by omega), ← List.getD_eq_getElem?_getD]
  have hbyte := frame_len_byte hlow hhigh
  have hframe := frame_length r
  rw [frameSize_iff, hlen, frame_head, header_write_iff, header_read_iff]
  cases hw : r.write with
  | false =>
    rw [hw] at hdata
    simp only [Bool.false_eq_true, false_and, or_false, true_and]
    rw [hframe, hdata]
    rfl
  | true =>
    rw [hw, if_pos rfl] at hdata
    simp only [Bool.true_eq_false, false_and, false_or, true_and]
    constructor
    · rintro ⟨hfive, hsize⟩
      rw [hget hfive] at hsize
      omega
    · intro hlast
      rw [hget (by omega)]
      omega

theorem frame_take_succ {k : Nat} (hk : k < r.frame.length) :
    r.frame.take k ++ [r.frame.getD k 0] = r.frame.take (k + 1) := by
  rw [List.getD_eq_getElem _ _ hk, List.take_append_getElem]

end

/-- The port that has taken the first `k` bytes of a request's frame. -/
def receivingFrame (r : LinkRequest) (s : State) (k : Nat) : State := { s with link := { s.link with
  state := if k = 0 then .idle else .receiving, buffer := r.frame.take k
  byteTimer := if k = 0 then s.link.byteTimer else .running 1000 } }

section
variable {r : LinkRequest} {s : State} (hreset : s.pins.resetN = false) (hclear : s.link.badFrame = false)
  (hover : s.link.overrun = false) (hlow : 1 ≤ r.len) (hhigh : r.len ≤ 64)
  (hdata : r.data.length = if r.write then r.len else 0)

include hreset hover in
theorem receivingFrame_takes (v : Byte) (k : Nat) :
    linkByteArrives v (receivingFrame r s k) = frameByte v (receivingFrame r s k) := by
  refine linkByteArrives_of_taking hreset ?_
  by_cases hk : k = 0
  · exact .inr ⟨if_pos hk, hover⟩
  · exact .inl (if_neg hk)

include hreset hclear hover hlow hhigh hdata

theorem receivingFrame_joins {k : Nat} (hk : k + 1 < r.frame.length) :
    linkByteArrives (r.frame.getD k 0) (receivingFrame r s k) = receivingFrame r s (k + 1) := by
  have hlt : k < r.frame.length := by omega
  have hjoin : (receivingFrame r s k).link.buffer ++ [r.frame.getD k 0] = r.frame.take (k + 1) := frame_take_succ hlt
  have hnot : frameSize (r.frame.take (k + 1)) ≠ some (r.frame.take (k + 1)).length := by
    rw [Ne, frame_whole_iff hlow hhigh hdata hlt]
    omega
  rw [receivingFrame_takes hreset hover, frameByte_of_joining (s := receivingFrame r s k) hclear
    (by rw [hjoin]; exact frame_not_spoiling hlow hhigh hlt) (by rw [hjoin]; exact hnot), hjoin]
  rfl

theorem receivingFrame_completes :
    linkByteArrives (r.frame.getD (r.frame.length - 1) 0) (receivingFrame r s (r.frame.length - 1)) =
      acceptRequest r (receivingFrame r s (r.frame.length - 1)) := by
  have hpos : 0 < r.frame.length := by rw [frame_length]; omega
  have hlt : r.frame.length - 1 < r.frame.length := by omega
  have hlast : r.frame.length - 1 + 1 = r.frame.length := by omega
  have hall : r.frame.take (r.frame.length - 1 + 1) = r.frame := by rw [hlast, List.take_length]
  have hjoin : (receivingFrame r s (r.frame.length - 1)).link.buffer ++ [r.frame.getD (r.frame.length - 1) 0] = r.frame :=
    (frame_take_succ hlt).trans hall
  have hgood := frame_not_spoiling hlow hhigh hlt
  have hwhole := (frame_whole_iff hlow hhigh hdata hlt).mpr hlast
  rw [hall] at hgood hwhole
  rw [receivingFrame_takes hreset hover,
    frameByte_of_whole (s := receivingFrame r s (r.frame.length - 1)) hclear (by rwa [hjoin]) (by rwa [hjoin]), hjoin, frame_crc_good, if_pos rfl, requestOf_frame hlow hhigh hdata]

end

/-- Settles O36: each byte but the last only joins, and the last one completes the request. -/
theorem linkRequestFrameReceivedWhole : Obligations.LinkRequestFrameReceivedWhole := by
  unfold Obligations.LinkRequestFrameReceivedWhole
  intro r s hpow hreset hclear hover hlow hhigh hdata
  have hlen : r.frame.length = if r.write then 7 + r.len else 7 := by
    rw [frame_length, hdata]
    split <;> rfl
  refine ⟨hlen, fun k hk => ?_, ?_⟩
  · exact (exec_linkByte_of_powered (s := receivingFrame r s k) hpow (.inl rfl)).trans
      (congrArg Host.Outcome.next (receivingFrame_joins hreset hclear hover hlow hhigh hdata hk))
  · exact (exec_linkByte_of_powered (s := receivingFrame r s (r.frame.length - 1)) hpow (.inr (.inl rfl))).trans
      (congrArg Host.Outcome.next (receivingFrame_completes hreset hclear hover hlow hhigh hdata))

end Sys2Proof.Machine
end

section
/-! SUPPORT. Postings, notice frames and the NOTICE line (R155 to R162). -/

namespace Sys2Proof.Machine

/-! ### A posting (R156 to R159) -/

theorem NoticeKind.unmaskable_iff {k : NoticeKind} :
    k.unmaskable = true ↔ k = .ready ∨ k = .profileBad ∨ k = .drained ∨ k = .queueFull := by
  cases k <;> simp [NoticeKind.unmaskable]

/-- A posting is held back by a clear bit of the mask, for the kinds whose bit counts. -/
theorem NoticeUnit.masks_iff {u : NoticeUnit} {k : NoticeKind} : u.masks k = true ↔
    ∃ m : BitVec 32, u.mask = some m ∧ m.getLsbD (k.code - 1) = false ∧
      k ≠ .ready ∧ k ≠ .profileBad ∧ k ≠ .drained ∧ k ≠ .queueFull := by
  have hplain : k.unmaskable = false ↔ k ≠ .ready ∧ k ≠ .profileBad ∧ k ≠ .drained ∧ k ≠ .queueFull := by
    rw [Bool.eq_false_iff, Ne, NoticeKind.unmaskable_iff, not_or, not_or, not_or]
  unfold NoticeUnit.masks
  cases u.mask with
  | none => simp
  | some m =>
    simp only [Bool.and_eq_true, Bool.not_eq_true', hplain, Option.some.injEq, exists_eq_left']
    exact and_comm

theorem Notice.partner_iff {k : NoticeKind} {b : Option Bay} {n : Notice} :
    Notice.partner k b n = true ↔ n.kind = k ∧ n.bay = b ∧ n.sending = false := by
  simp [Notice.partner, and_assoc]

/-- The first notice that satisfies the test is the one raised. -/
theorem bumpFirst_append {p : Notice → Bool} {n : Notice} (suf : List Notice) (hn : p n = true) :
    ∀ {pre : List Notice}, (∀ m ∈ pre, ¬p m = true) →
      bumpFirst p (pre ++ n :: suf) = pre ++ { n with repeats := min 255 (n.repeats + 1) } :: suf
  | [], _ => by
    rw [List.nil_append, bumpFirst, if_pos hn]
    rfl
  | m :: pre, h => by
    rw [List.cons_append, bumpFirst, if_neg (h m (List.mem_cons_self ..)),
      bumpFirst_append suf hn fun x hx => h x (List.mem_cons_of_mem _ hx), List.cons_append]

section
variable {k : NoticeKind} {b : Option Bay} {d : List Byte} {s : State}

theorem post_of_masked (h : s.notices.masks k = true) : post k b d s = s := if_pos h

theorem post_of_partner (h : ¬s.notices.masks k = true) (hp : s.notices.queue.any (Notice.partner k b) = true) :
    post k b d s = { s with notices := { s.notices with queue := bumpFirst (Notice.partner k b) s.notices.queue } } := by
  unfold post
  rw [if_neg h, if_pos hp]

theorem post_of_closed (h : ¬s.notices.masks k = true) (hp : ¬s.notices.queue.any (Notice.partner k b) = true)
    (hclosed : s.notices.closed = true) : post k b d s =
      { s with notices := { s.notices with queue := bumpFirst (Notice.partner .queueFull none) s.notices.queue } } := by
  unfold post
  rw [if_neg h, if_neg hp, if_pos hclosed]

theorem post_of_room (h : ¬s.notices.masks k = true) (hp : ¬s.notices.queue.any (Notice.partner k b) = true)
    (hclosed : s.notices.closed = false) (hroom : s.notices.queue.length < 15) :
    post k b d s = appendNotice k b d s := by
  unfold post
  rw [if_neg h, if_neg hp, if_neg (ne_true_of_eq_false hclosed), if_pos hroom]

theorem post_of_full (h : ¬s.notices.masks k = true) (hp : ¬s.notices.queue.any (Notice.partner k b) = true)
    (hclosed : s.notices.closed = false) (hfull : 15 ≤ s.notices.queue.length) :
    post k b d s = appendNotice .queueFull none [] { s with notices := { s.notices with closed := true } } := by
  unfold post
  rw [if_neg h, if_neg hp, if_neg (ne_true_of_eq_false hclosed), if_neg (not_lt.mpr hfull)]

end

/-- Settles O40: the mask, a partner, the closed queue, the room left. -/
theorem postingSettledByTheFirstRuleThatApplies : Obligations.PostingSettledByTheFirstRuleThatApplies := by
  unfold Obligations.PostingSettledByTheFirstRuleThatApplies
  intro k b d s
  refine ⟨fun hheld => post_of_masked (NoticeUnit.masks_iff.mpr hheld), fun hheld => ?_⟩
  have hopen : ¬s.notices.masks k = true := mt NoticeUnit.masks_iff.mp hheld
  have raises {k : NoticeKind} {b : Option Bay} {pre suf : List Notice} {n : Notice}
      (hn : n.kind = k ∧ n.bay = b ∧ n.sending = false)
      (hfirst : ∀ m ∈ pre, ¬(m.kind = k ∧ m.bay = b ∧ m.sending = false)) :
      bumpFirst (Notice.partner k b) (pre ++ n :: suf) =
        pre ++ { n with repeats := min 255 (n.repeats + 1) } :: suf :=
    bumpFirst_append suf (Notice.partner_iff.mpr hn) fun m hm => mt Notice.partner_iff.mp (hfirst m hm)
  refine ⟨fun pre suf n hqueue hn hfirst => ?_, fun hnone => ?_⟩
  · have hany : s.notices.queue.any (Notice.partner k b) = true :=
      List.any_eq_true.mpr ⟨n, by rw [hqueue]; simp, Notice.partner_iff.mpr hn⟩
    rw [post_of_partner hopen hany, hqueue, raises hn hfirst]
  · have hany : ¬s.notices.queue.any (Notice.partner k b) = true := by
      rw [List.any_eq_true]
      rintro ⟨n, hmem, hn⟩
      exact hnone n hmem (Notice.partner_iff.mp hn)
    refine ⟨fun hclosed pre suf n hqueue hn hfirst => ?_, fun hclosed hroom => ?_, fun hclosed hfull => ?_⟩
    · rw [post_of_closed hopen hany hclosed, hqueue, raises hn hfirst, ← hclosed]
    · rw [post_of_room hopen hany hclosed hroom, appendNotice, ← hclosed]
    · rw [post_of_full hopen hany hclosed hfull, appendNotice]

/-! ### A frame begins (R75, R161) -/

section
variable {s : State} {n : Notice} {ns : List Notice}

theorem beginFrame_of_nothing (h : s.notices.transmitter ≠ .idle ∨ s.notices.queue = []) : beginFrame s = s := by
  unfold beginFrame
  split
  · next hidle hqueue =>
    obtain h | h := h
    · exact absurd hidle h
    · rw [hqueue] at h; cases h
  · rfl

/-- The unit that sends the head notice, as it has become, at the line rate of that moment. -/
def NoticeUnit.begun (u : NoticeUnit) (m : Notice) (ns : List Notice) (closed : Bool) : NoticeUnit :=
  { u with queue := { m with sending := true } :: ns, closed := closed, transmitter := .sending u.rate }

variable (hidle : s.notices.transmitter = .idle) (hqueue : s.notices.queue = n :: ns)
include hidle hqueue

theorem beginFrame_of_starved {b : Bay} (hk : n.kind = .poolStarved) (hb : n.bay = some b) : beginFrame s =
    { s with notices := s.notices.begun { n with payload := toLE 1 s.pool.starved[b] } ns s.notices.closed
             pool := { s.pool with starved := upd s.pool.starved b fun _ => 0 } } := by
  unfold beginFrame
  rw [hidle, hqueue]
  dsimp only
  rw [hk, hb]
  rfl

theorem beginFrame_of_other (h : n.kind ≠ .poolStarved ∨ n.bay = none) : beginFrame s =
    { s with notices := s.notices.begun n ns (if n.kind = .queueFull then false else s.notices.closed) } := by
  unfold beginFrame
  rw [hidle, hqueue]
  dsimp only
  split
  · next hk hb =>
    obtain h | h := h
    · exact absurd hk h
    · rw [hb] at h; cases h
  · rfl

end

theorem frameSent_of_sending {s : State} {rate : Nat} (h : s.notices.transmitter = .sending rate) : frameSent s =
    beginFrame { s with notices := { s.notices with queue := s.notices.queue.tail, transmitter := .idle } } := by
  unfold frameSent
  rw [h]

theorem frameSent_of_idle {s : State} (h : s.notices.transmitter = .idle) : frameSent s = s := by
  unfold frameSent
  rw [h]

/-! ### The line (R162) -/

theorem onLine_of_idle {u : NoticeUnit} (h : u.transmitter = .idle) : u.onLine = .resting := by
  unfold NoticeUnit.onLine
  rw [h]

theorem onLine_of_sending {u : NoticeUnit} {rate : Nat} {n : Notice} {ns : List Notice} (h : u.transmitter = .sending rate)
    (hqueue : u.queue = n :: ns) : u.onLine = .carrying rate (serialBits n.frame) := by
  have hframe : u.sendingFrame = some n.frame := by
    unfold NoticeUnit.sendingFrame
    rw [h, hqueue]
  unfold NoticeUnit.onLine
  rw [h, hframe]

theorem byteBits_data (v : Byte) {i : Nat} (hi : i < 8) :
    (byteBits v)[i + 1]? = some (.data (v.toNat.testBit i)) := by
  rw [BitVec.testBit_toNat]
  interval_cases i <;> rfl

/-- Settles O41: the frame that follows, what begins it, the codes, and the bits on the line. -/
theorem noticeFrameSentBeginsTheNext : Obligations.NoticeFrameSentBeginsTheNext := by
  unfold Obligations.NoticeFrameSentBeginsTheNext
  refine ⟨fun s hpow => ?sent, fun n ns s hidle hqueue => ?begins, fun s => beginFrame_of_nothing, by decide,
    fun u => ⟨onLine_of_idle, fun rate n ns hsend hqueue => ?line⟩,
    fun v => ⟨byteBits_length v, rfl, rfl, fun i => byteBits_data v⟩⟩
  case sent =>
    have hexec : exec .noticeFrameSent s = .next (frameSent s) := exec_of_powered (by decide) rfl hpow
    rw [hexec]
    refine ⟨fun hidle => congrArg _ (frameSent_of_idle hidle), fun rate hsend => ⟨fun hlast => ?_, fun n ns hnext => ?_⟩⟩
    · rw [frameSent_of_sending hsend, hlast, beginFrame_of_nothing (.inr rfl)]
    · rw [frameSent_of_sending hsend, hnext]
  case begins =>
    refine ⟨fun b hk hb => beginFrame_of_starved hidle hqueue hk hb, fun hk hb => ?_, fun hk => ?_, fun hk hfull => ?_, rfl⟩
    · rw [beginFrame_of_other hidle hqueue (.inr hb), if_neg (by rw [hk]; decide)]
      rfl
    · rw [beginFrame_of_other hidle hqueue (.inl (by rw [hk]; decide)), if_pos hk]
      rfl
    · rw [beginFrame_of_other hidle hqueue (.inl hk), if_neg hfull]
      rfl
  case line =>
    exact ⟨_, onLine_of_sending hsend hqueue, serialBits_length _, serialBits_byte _⟩

end Sys2Proof.Machine
end

section
/-! SUPPORT. Bursts of the swath memory (R58, R61, R145). -/

namespace Sys2Proof.Machine

/-- Two addresses of a burst of at most 2^24 bytes are distinct. -/
theorem burstAddr_ne {a : Addr24} {i : Nat} (hpos : 0 < i) (hlt : i < 2 ^ 24) :
    (a + BitVec.ofNat 24 i).toNat ≠ a.toNat := by
  have ha := a.isLt
  rw [BitVec.toNat_add, BitVec.toNat_ofNat]
  omega

theorem burstAddr_succ (a : Addr24) (i : Nat) : a + BitVec.ofNat 24 (i + 1) = a + 1 + BitVec.ofNat 24 i := by
  rw [Nat.add_comm, BitVec.ofNat_add, ← BitVec.add_assoc]
  rfl

/-- Every other byte is as before. -/
theorem read_writeBurst_other : ∀ (d : List Byte) (m : Memory) (a : Addr24) (x : Nat), m.wf = true →
    (∀ i : Nat, i < d.length → x ≠ (a + BitVec.ofNat 24 i).toNat) →
    Memory.read (Memory.writeBurst m a d) x = Memory.read m x
  | [], _, _, _, _, _ => rfl
  | v :: vs, m, a, x, hwf, hx => by
    have hfirst : x ≠ a.toNat := by simpa using hx 0 (Nat.succ_pos _)
    rw [Memory.writeBurst, read_writeBurst_other vs _ _ x (wf_write m a.toNat v hwf), read_write _ _ _ _ hwf,
      if_neg hfirst]
    intro i hi
    rw [← burstAddr_succ]
    exact hx (i + 1) (Nat.succ_lt_succ hi)

/-- The bytes of a burst stand at their addresses. -/
theorem read_writeBurst_at : ∀ (d : List Byte) (m : Memory) (a : Addr24), m.wf = true → d.length ≤ 2 ^ 24 →
    ∀ (i : Nat) (h : i < d.length), Memory.read (Memory.writeBurst m a d) (a + BitVec.ofNat 24 i).toNat = d[i]
  | [], _, _, _, _, _, h => absurd h (Nat.not_lt_zero _)
  | v :: vs, m, a, hwf, hlen, i, h => by
    have hwf' := wf_write m a.toNat v hwf
    rw [List.length_cons] at hlen h
    cases i with
    | zero =>
      have hzero : (a + BitVec.ofNat 24 0).toNat = a.toNat := by simp
      rw [hzero, Memory.writeBurst, read_writeBurst_other vs _ _ _ hwf', read_write _ _ _ _ hwf, if_pos rfl]
      · rfl
      · intro j hj
        rw [← burstAddr_succ]
        exact (burstAddr_ne (Nat.succ_pos j) (by omega)).symm
    | succ i =>
      rw [burstAddr_succ, Memory.writeBurst, read_writeBurst_at vs _ _ hwf' (by omega) i (by omega)]
      rfl

theorem readBurst_get : ∀ (m : Memory) (n : Nat) (a : Addr24) (i : Nat), i < n →
    (Memory.readBurst m a n)[i]? = some (Memory.read m (a + BitVec.ofNat 24 i).toNat)
  | _, 0, _, _, h => absurd h (Nat.not_lt_zero _)
  | m, n + 1, a, i, h => by
    cases i with
    | zero =>
      have hzero : a + BitVec.ofNat 24 0 = a := by simp
      rw [hzero]
      rfl
    | succ i =>
      rw [burstAddr_succ, Memory.readBurst, List.getElem?_cons_succ]
      exact readBurst_get m n (a + 1) i (Nat.lt_of_succ_lt_succ h)

theorem linkBurstCompletes_of_service {l : LinkBurst} {s : State} (h : s.port.linkService = some l) :
    linkBurstCompletes s =
      let t : State := { s with sram := if l.write then Memory.writeBurst s.sram l.start l.data else s.sram }
      portFree (if l.discarded then t
        else respond .done (if l.write then [] else Memory.readBurst s.sram l.start l.len) t) := by
  unfold linkBurstCompletes
  rw [h]
  dsimp only
  cases l.write <;> rfl

/-- Settles O32: the burst's completion, and what a burst writes and reads. -/
theorem linkBurstStoresOrReturnsItsBytes : Obligations.LinkBurstStoresOrReturnsItsBytes := by
  unfold Obligations.LinkBurstStoresOrReturnsItsBytes
  refine ⟨fun s hpow => ?_, fun m a d hwf hlen =>
    ⟨read_writeBurst_at d m a hwf (by omega), fun x => read_writeBurst_other d m a x hwf, fun n => readBurst_get m n a⟩⟩
  have hexec : exec .linkBurstDone s = .next (linkBurstCompletes s) := exec_of_powered (by decide) rfl hpow
  rw [hexec]
  refine ⟨fun hnone => by rw [linkBurstCompletes, hnone], fun l hserved => ?_⟩
  rw [linkBurstCompletes_of_service hserved]
  dsimp only
  refine ⟨fun hdiscarded => by rw [if_pos hdiscarded], fun x hkept hx hopen => ?_, fun hanswered => ?_⟩
  · rw [if_neg (ne_true_of_eq_false hkept)]
    exact congrArg (fun t => Host.Outcome.next (portFree t)) (respond_of_open _ _ hx hopen)
  · split
    · rfl
    · exact congrArg (fun t => Host.Outcome.next (portFree t)) (respond_of_answered _ _ hanswered)

end Sys2Proof.Machine
end

section
/-! SUPPORT. The verdict unit's policy, its refill checks, its table, and a doubt record's resolution (R121 to R127). -/

namespace Sys2Proof.Machine

/-! ### Policy (R121, R122) -/

section
variable {p : Policy} {v w : Verdict} {r : PolicyRow}

theorem action_of_row (h : p.row v = some r) :
    p.action v = if r.action = .limit ∧ r.allowanceLU = 0 then .block else r.action := by
  unfold Policy.action
  rw [h]

theorem allowance_of_row (h : p.row v = some r) : p.allowance v = r.allowanceLU * 10 ^ 9 := by
  unfold Policy.allowance
  rw [h]
  rfl

theorem marks_iff_of_row (h : p.row v = some r) : p.marks v = true ↔ r.mark = true ∧ v ≠ .priorRefill := by
  unfold Policy.marks
  rw [h]
  cases v <;> simp

theorem row_of_ne_genuine (h : v ≠ .genuine) : ∃ r, p.row v = some r := by
  cases v with
  | genuine => exact absurd rfl h
  | _ => exact ⟨_, rfl⟩

/-- A LIMIT that a row calls for has an allowance. -/
theorem allowance_pos (h : p.action v = .limit) : 0 < p.allowance v := by
  cases hr : p.row v with
  | none =>
    unfold Policy.action at h
    rw [hr] at h
    cases h
  | some r =>
    rw [action_of_row hr] at h
    rw [allowance_of_row hr]
    split at h
    · cases h
    · next hno => exact Nat.mul_pos (Nat.pos_of_ne_zero fun hzero => hno ⟨h, hzero⟩) (by decide)

theorem rank_of_ne_genuine (h : v ≠ .genuine) : p.rank v = 1 + (p.action v).strength := by
  cases v with
  | genuine => exact absurd rfl h
  | _ => rfl

theorem strength_injective {a b : Action} : a.strength = b.strength ↔ a = b := by
  cases a <;> cases b <;> decide

end

/-- A row's action, allowance and mark. -/
theorem policy_row {p : Policy} {v : Verdict} {r : PolicyRow} (h : p.row v = some r) :
    (r.action = .limit → r.allowanceLU = 0 → p.action v = .block) ∧
      (r.action ≠ .limit ∨ 0 < r.allowanceLU → p.action v = r.action) ∧ p.allowance v = r.allowanceLU * 10 ^ 9 ∧
      (p.marks v = true ↔ r.mark = true ∧ v ≠ .priorRefill) := by
  refine ⟨fun hlimit hzero => ?_, fun hother => ?_, allowance_of_row h, marks_iff_of_row h⟩
  · rw [action_of_row h, if_pos ⟨hlimit, hzero⟩]
  · rw [action_of_row h, if_neg]
    rintro ⟨hlimit, hzero⟩
    exact hother.elim (· hlimit) (Nat.ne_of_gt · hzero)

/-! ### The refill checks (R125) -/

section
variable {good found : Bool} {marks : List Byte} {level use capacity : Nat} {v : Saved}

/-- A slot of the marks image holds one of the five kinds of a refill. -/
def RefillKind (marks : List Byte) : Prop := ∃ k : Nat, k ≤ 6 ∧ 1 ≤ field marks (4 * k) 1 ∧ field marks (4 * k) 1 ≤ 5

theorem refillKind_iff : (markSlots.any fun k => isRefillKind (markKind marks k)) = true ↔ RefillKind marks := by
  have hslot (k : Nat) : k ∈ markSlots ↔ k ≤ 6 := by
    simp only [markSlots, List.mem_cons, List.not_mem_nil, or_false]
    omega
  simp only [List.any_eq_true, hslot, isRefillKind, Bool.and_eq_true, decide_eq_true_eq]
  rfl

theorem refillChecks_of_bad : refillChecks false found marks level use capacity v = .tampered := rfl

theorem refillChecks_of_prior (h : RefillKind marks) :
    refillChecks true found marks level use capacity v = .priorRefill := by
  unfold refillChecks
  rw [if_neg (by decide), if_pos (refillKind_iff.mpr h)]

theorem refillChecks_of_found (h : ¬RefillKind marks) : refillChecks true true marks level use capacity v =
    if use < v.lastUse then .rolledBack
    else if v.lastLevel < level then .refilled
    else if use = v.lastUse ∧ level < v.lastLevel then .tampered else .genuine := by
  unfold refillChecks
  rw [if_neg (by decide), if_neg (mt refillKind_iff.mp h), if_pos rfl]

theorem refillChecks_of_new (h : ¬RefillKind marks) : refillChecks true false marks level use capacity v =
    if capacity < level then .tampered else .genuine := by
  unfold refillChecks
  rw [if_neg (by decide), if_neg (mt refillKind_iff.mp h), if_neg (by decide)]

end

/-! ### Combination (R127) -/

section
variable {h a : Action} {w n : Nat}

theorem combineAction_of_block (hb : a = .block ∨ h = .block) : combineAction h w a n = (.block, w) := by
  obtain rfl | rfl := hb
  · cases h <;> rfl
  · cases a <;> rfl

theorem combineAction_of_accept : combineAction h w .accept n = (h, w) := by cases h <;> rfl

/-- The table weakens no action and raises no allowance. -/
theorem combineAction_monotone : h.strength ≤ (combineAction h w a n).1.strength ∧
    (h = .limit → (combineAction h w a n).2 ≤ w) := by
  cases h <;> cases a <;> simp [combineAction, Action.strength]

end

theorem combineEntry_dirty (p : Policy) (v : Verdict) (n : Entry) :
    let x := n.saved
    let y := (combineEntry p v n).saved
    (combineEntry p v n).dirty =
      (n.dirty || decide (y.held ≠ x.held ∨ y.allowance ≠ x.allowance ∨ y.worst ≠ x.worst)) := by
  unfold combineEntry combineSaved
  dsimp only
  congr 1
  rw [Bool.eq_iff_iff, bne_iff_ne, decide_eq_true_eq, ← not_and_or, ← not_and_or]
  refine not_congr ⟨fun h => ?_, fun ⟨hheld, hallowance, hworst⟩ => ?_⟩
  · exact ⟨congrArg Saved.held h, congrArg Saved.allowance h, congrArg Saved.worst h⟩
  · rw [hheld, hallowance, hworst]

/-! ### A doubt record (R123, R124) -/

section
variable {b : Bay} {e : EntryIx} {level use : Nat} {d : DoubtRecord} {s : State}

theorem notLanded_iff : notLanded d level use = true ↔
    (level = d.priorLevel ∧ use = d.priorUse) ∧ ¬(level = d.expectedLevel ∧ use = d.expectedUse) := by
  simp only [notLanded, Bool.and_eq_true, Bool.not_eq_true', Bool.and_eq_false_iff, beq_iff_eq, beq_eq_false_iff_ne,
    not_and_or]
  exact and_comm

theorem resolveDoubt_of_none (h : s.registry.entries[e].saved.doubt = none) : resolveDoubt b e level use s = (s, false) := by
  unfold resolveDoubt
  dsimp only
  rw [h]

/-- A page before the commit: the total goes back to debt. -/
theorem resolveDoubt_of_not_landed (h : s.registry.entries[e].saved.doubt = some d)
    (hfit : s.registry.entries[e].saved.debt + d.total ≤ Config.volumeMax) (hland : notLanded d level use = true) :
    resolveDoubt b e level use s = (s.modEntry e fun n => { n with
      dirty := true
      saved := { n.saved with debt := s.registry.entries[e].saved.debt + d.total, doubt := none } }, false) := by
  unfold resolveDoubt
  dsimp only
  rw [h]
  dsimp only
  rw [if_pos hland, addDebt_of_le _ hfit]
  unfold State.modEntry
  dsimp only
  rw [upd_upd]

theorem resolveDoubt_of_landed (h : s.registry.entries[e].saved.doubt = some d) (hland : notLanded d level use = false) :
    resolveDoubt b e level use s = (s.modEntry e fun n => { n with
      dirty := true
      saved := { n.saved with
        lastLevel := d.expectedLevel, lastUse := d.expectedUse, residue := d.total % 1000000000
        overdraw := min 16777215 (s.registry.entries[e].saved.overdraw + d.overdraw), doubt := none } },
      decide (0 < d.overdraw) && overMargin (min 16777215 (s.registry.entries[e].saved.overdraw + d.overdraw))
        s.registry.entries[e].saved.capacity s.profile.margin) := by
  unfold resolveDoubt
  dsimp only
  rw [h]
  dsimp only
  rw [if_neg (ne_true_of_eq_false hland)]
  rfl

end

/-- Settles O53: the policy's rows, the checks in order, the table, and the doubt record's two cases. -/
theorem verdictFollowsTheChecksAndNeverWeakens : Obligations.VerdictFollowsTheChecksAndNeverWeakens := by
  unfold Obligations.VerdictFollowsTheChecksAndNeverWeakens
  refine ⟨fun p => ?policy, fun good found marks level use capacity v => ?checks, fun p v n => ?table,
    fun b e level use s => resolveDoubt_of_none, fun b e level use d s hdoubt hfit => ?doubt⟩
  case policy =>
    refine ⟨policy_row rfl, policy_row rfl, policy_row rfl, policy_row rfl, policy_row rfl, rfl, rfl, rfl,
      fun v => allowance_pos, by decide, by decide, fun v hv => ⟨?_, fun w hw => ⟨?_, ?_⟩⟩⟩
    · rw [rank_of_ne_genuine hv, Nat.add_comm]
      exact Nat.succ_pos _
    · rw [rank_of_ne_genuine hv, rank_of_ne_genuine hw]
      exact Nat.add_lt_add_iff_left
    · rw [rank_of_ne_genuine hv, rank_of_ne_genuine hw, Nat.add_left_cancel_iff, strength_injective]
  case checks =>
    refine ⟨fun hbad => by rw [hbad, refillChecks_of_bad], fun hgood hkind => by rw [hgood, refillChecks_of_prior hkind],
      fun hgood hkind => ?_⟩
    have hfound (h : found = true) : refillChecks good found marks level use capacity v =
        if use < v.lastUse then .rolledBack
        else if v.lastLevel < level then .refilled
        else if use = v.lastUse ∧ level < v.lastLevel then .tampered else .genuine := by
      rw [hgood, h, refillChecks_of_found hkind]
    refine ⟨fun hf huse => ?_, fun hf huse hlevel => ?_, fun hf huse hlevel => ?_, fun hf huse hlevel hsame => ?_,
      fun hf => ?_⟩
    · rw [hfound hf, if_pos huse]
    · rw [hfound hf, if_neg (by omega), if_pos hlevel]
    · rw [hfound hf, if_neg (by omega), if_neg (by omega), if_pos ⟨huse, hlevel⟩]
    · rw [hfound hf, if_neg (by omega), if_neg (by omega), if_neg (by omega)]
    · rw [hgood, hf, refillChecks_of_new hkind]
  case table =>
    have haction : combineEntry p v n = { n with saved := combineSaved p v n.saved
                                                 dirty := n.dirty || combineSaved p v n.saved != n.saved } := rfl
    have hpair : ((combineEntry p v n).saved.held, (combineEntry p v n).saved.allowance) =
        combineAction n.saved.held n.saved.allowance (p.action v) (p.allowance v) := rfl
    have read {x : Action} {y : Nat} (h : combineAction n.saved.held n.saved.allowance (p.action v) (p.allowance v) = (x, y)) :
        (combineEntry p v n).saved.held = x ∧ (combineEntry p v n).saved.allowance = y := by
      rw [h] at hpair
      exact ⟨congrArg Prod.fst hpair, congrArg Prod.snd hpair⟩
    obtain ⟨hstrength, hless⟩ := combineAction_monotone (h := n.saved.held) (w := n.saved.allowance) (a := p.action v)
      (n := p.allowance v)
    refine ⟨fun h => read (combineAction_of_block h), fun h => read (by rw [h, combineAction_of_accept]),
      fun ha hx => read (by rw [ha, hx]; rfl), fun ha hx => read (by rw [ha, hx]; rfl), hstrength, hless, rfl,
      combineEntry_dirty p v n⟩
  case doubt =>
    intro hland
    cases hcase : notLanded d level use with
    | true =>
      have hnot : hland := notLanded_iff.mp hcase
      rw [resolveDoubt_of_not_landed hdoubt hfit hcase]
      refine ⟨⟨nofun, fun h => absurd hnot h.1⟩, ?_⟩
      simp only [if_pos hnot]
      rfl
    | false =>
      have hnot : ¬hland := fun h => ne_true_of_eq_false hcase (notLanded_iff.mpr h)
      rw [resolveDoubt_of_landed hdoubt hcase]
      refine ⟨?_, ?_⟩
      · simp only [Bool.and_eq_true, decide_eq_true_eq, overMargin, gt_iff_lt]
        exact (and_iff_right hnot).symm
      · simp only [if_neg hnot]
        rfl

end Sys2Proof.Machine
end

section
/-! SUPPORT. The registry's lookup: finding, holding, creating, evicting (R107 to R110). -/

namespace Sys2Proof.Machine

/-! ### Searches in entry order -/

/-- The lowest-numbered entry that satisfies a test is the one found. -/
theorem find_of_least {p : EntryIx → Bool} {e : EntryIx} (he : p e = true) (hleast : ∀ f : EntryIx, f < e → p f = false) :
    allEntries.find? p = some e := by
  obtain ⟨before, after, hsplit⟩ := List.append_of_mem (mem_allEntries e)
  refine List.find?_eq_some_iff_append.mpr ⟨he, before, after, hsplit, fun f hf => ?_⟩
  have hordered : allEntries.Pairwise (· < ·) := List.pairwise_lt_finRange 48
  rw [hsplit, List.pairwise_append] at hordered
  rw [hleast f (hordered.2.2 f hf e (List.mem_cons_self ..))]
  rfl

/-- An entry that satisfies a test alone is the one found. -/
theorem find_of_only {p : EntryIx → Bool} {e : EntryIx} (he : p e = true) (honly : ∀ f : EntryIx, p f = true → f = e) :
    allEntries.find? p = some e := by
  cases h : allEntries.find? p with
  | none => exact absurd he (List.find?_eq_none.mp h e (mem_allEntries e))
  | some f => rw [honly f (List.find?_some h)]

theorem leastSeen_mem {r : Registry} : ∀ {l : List EntryIx} {e : EntryIx}, leastSeen r l = some e → e ∈ l
  | x :: xs, e, h => by
    unfold leastSeen at h
    split at h
    · cases h
      exact List.mem_cons_self ..
    · next f hf =>
      split at h
      · cases h
        exact List.mem_cons_self ..
      · cases h
        exact List.mem_cons_of_mem _ (leastSeen_mem hf)

theorem leastSeen_isSome {r : Registry} : ∀ {l : List EntryIx}, l ≠ [] → leastSeen r l ≠ none
  | [], h => absurd rfl h
  | x :: xs, _ => by
    unfold leastSeen
    split
    · nofun
    · split <;> nofun

/-- The least last seen of an ascending list, the lowest-numbered on a tie. -/
theorem leastSeen_of_least {r : Registry} : ∀ {l : List EntryIx} {e : EntryIx}, l.Pairwise (· < ·) → e ∈ l →
    (∀ f ∈ l, r.entries[e].saved.lastSeen < r.entries[f].saved.lastSeen ∨
      (r.entries[e].saved.lastSeen = r.entries[f].saved.lastSeen ∧ e ≤ f)) → leastSeen r l = some e
  | x :: xs, e, hordered, hmem, hleast => by
    rw [List.pairwise_cons] at hordered
    obtain ⟨hbefore, hrest⟩ := hordered
    obtain rfl | hmem := List.mem_cons.mp hmem
    · unfold leastSeen
      split
      · rfl
      · next f hf =>
        have hle : r.entries[e].saved.lastSeen ≤ r.entries[f].saved.lastSeen := by
          obtain hlt | ⟨heq, -⟩ := hleast f (List.mem_cons_of_mem _ (leastSeen_mem hf))
          · exact hlt.le
          · exact heq.le
        rw [if_pos hle]
    · have hlater := leastSeen_of_least hrest hmem fun f hf => hleast f (List.mem_cons_of_mem _ hf)
      have hlt : r.entries[e].saved.lastSeen < r.entries[x].saved.lastSeen := by
        obtain hlt | ⟨-, hle⟩ := hleast x (List.mem_cons_self ..)
        · exact hlt
        · exact absurd (hbefore e hmem) (not_lt.mpr hle)
      unfold leastSeen
      rw [hlater]
      exact if_neg (not_le.mpr hlt)

/-! ### The entry given up (R108) -/

theorem inFlight_iff {r : Registry} {e : EntryIx} : r.inFlight e = true ↔ ∃ v c, r.write = some (.entry e v c) := by
  unfold Registry.inFlight
  split
  · next f v c hw =>
    rw [beq_iff_eq, hw]
    constructor
    · rintro rfl
      exact ⟨v, c, rfl⟩
    · rintro ⟨v', c', h⟩
      cases h
      rfl
  · next hw =>
    refine ⟨nofun, fun ⟨v, c, h⟩ => absurd h (hw e v c)⟩

theorem evictable_iff {s : State} {e : EntryIx} (hvalid : s.registry.entries[e].saved.valid = true) :
    s.evictable e = true ↔ s.registry.entries[e].inBay = none ∧
      (∀ (v : Saved) (c : BitVec 32), s.registry.write ≠ some (.entry e v c)) ∧
        ∀ c : Bay, s.tracker.owner[c] ≠ some e := by
  have hwrite : s.registry.inFlight e = false ↔
      ∀ (v : Saved) (c : BitVec 32), s.registry.write ≠ some (.entry e v c) := by
    rw [Bool.eq_false_iff, Ne, inFlight_iff]
    simp only [not_exists, ne_eq]
  have howner : (allBays.any fun b => s.tracker.owner[b] == some e) = false ↔
      ∀ c : Bay, s.tracker.owner[c] ≠ some e := by
    simp only [List.any_eq_false, mem_allBays, beq_iff_eq, true_imp_iff, ne_eq]
  unfold State.evictable
  rw [hvalid, Bool.true_and, Bool.and_eq_true, Bool.and_eq_true, Bool.not_eq_true', Bool.not_eq_true', hwrite, howner,
    beq_iff_eq, and_assoc]

theorem volume_eq (v : Saved) : v.volume = v.debt + v.residue + v.doubtTotal := rfl

section
variable {b : Bay} {k : LookupKey} {s : State} {e : EntryIx}

/-! ### The rows of R107's table -/

theorem holds_iff {r : Registry} {serial : BitVec 64} :
    (r.entries[e].saved.valid && r.entries[e].saved.serial == serial) = true ↔
      r.entries[e].saved.valid = true ∧ r.entries[e].saved.serial = serial := by
  rw [Bool.and_eq_true, beq_iff_eq]

theorem find_of_holder (he : s.registry.entries[e].saved.valid = true ∧ s.registry.entries[e].saved.serial = k.serial)
    (honly : ∀ f : EntryIx, s.registry.entries[f].saved.valid = true ∧ s.registry.entries[f].saved.serial = k.serial →
      f = e) : s.registry.find k.serial = some e :=
  find_of_only (holds_iff.mpr he) fun f hf => honly f (holds_iff.mp hf)

theorem find_of_no_holder
    (h : ∀ e : EntryIx, ¬(s.registry.entries[e].saved.valid = true ∧ s.registry.entries[e].saved.serial = k.serial)) :
    s.registry.find k.serial = none :=
  List.find?_eq_none.mpr fun e _ => mt holds_iff.mp (h e)

theorem lookup_of_found (hfind : s.registry.find k.serial = some e) (hbay : s.registry.entries[e].inBay = none) :
    lookup b k s = (s.modEntry e fun n => { n with saved := { n.saved with capacity := k.capacity } }, .found e) := by
  unfold lookup
  rw [hfind]
  exact if_pos hbay

theorem lookup_of_held (hfind : s.registry.find k.serial = some e) (hbay : s.registry.entries[e].inBay ≠ none) :
    lookup b k s = (s, .held) := by
  unfold lookup
  rw [hfind]
  exact if_neg hbay

theorem lookup_of_unused (hfind : s.registry.find k.serial = none) (hunused : s.registry.unused = some e) :
    lookup b k s = (createEntry e k s, .created e) := by
  unfold lookup
  rw [hfind]
  dsimp only
  rw [hunused]

theorem lookup_of_evicted (hfind : s.registry.find k.serial = none) (hunused : s.registry.unused = none)
    (hchoice : s.evictionChoice = some e) : lookup b k s = (createEntry e k (evict e b s), .created e) := by
  unfold lookup
  rw [hfind]
  dsimp only
  rw [hunused]
  dsimp only
  rw [hchoice]

/-- The entry a creation fills, whatever it held but its last seen, and the entries beside it (R110). -/
theorem createEntry_fills {t : State} (hself : ∀ f : EntryIx, f ≠ e → t.registry.entries[f] = s.registry.entries[f])
    (hcheck : t.registry.entries[e].check = s.registry.entries[e].check)
    (hbay : t.registry.entries[e].inBay = s.registry.entries[e].inBay)
    (hseen : t.registry.entries[e].saved.lastSeen = s.registry.entries[e].saved.lastSeen) :
    (createEntry e k t).registry.entries[e] = { s.registry.entries[e] with
        saved := { valid := true, serial := k.serial, capacity := k.capacity, lastLevel := k.level, lastUse := k.use,
                   residue := 0, debt := 0, overdraw := 0, worst := .genuine, held := .accept, allowance := 0,
                   doubt := none, lastSeen := s.registry.entries[e].saved.lastSeen }
        dirty := true
        commits := 0 } ∧
      ∀ f : EntryIx, f ≠ e → (createEntry e k t).registry.entries[f] = s.registry.entries[f] := by
  unfold createEntry
  rw [modEntry_registry]
  refine ⟨?_, fun f hf => ?_⟩
  · rw [upd_self, hcheck, hbay, hseen]
  · exact (upd_ne _ _ _ _ hf).trans (hself f hf)

/-- What an eviction writes off (R105, R108). -/
theorem evict_header (b : Bay) : (s.registry.entries[e].saved.volume = 0 →
      (evict e b s).registry.header = s.registry.header ∧ (evict e b s).notices = s.notices) ∧
    (0 < s.registry.entries[e].saved.volume →
      let total := min (2 ^ 64 - 1) (s.registry.header.writtenOff + s.registry.entries[e].saved.volume)
      (evict e b s).registry.header = { s.registry.header with writtenOff := total, dirty := true } ∧
      (evict e b s).notices = (post .debtWrittenOff (some b)
        (toLE 6 (min s.registry.entries[e].saved.volume (2 ^ 48 - 1)) ++ toLE 6 (min total (2 ^ 48 - 1))) s).notices) := by
  refine ⟨fun hzero => ?_, fun hpos => ?_⟩
  · unfold evict
    rw [hzero, writeOff_zero]
    exact ⟨rfl, rfl⟩
  · unfold evict writeOff postWrittenOff
    rw [if_neg (Nat.ne_of_gt hpos), modEntry_registry, modEntry_notices]
    refine ⟨?_, post_notices_congr _ _ _ rfl rfl⟩
    dsimp only
    rw [post_registry]
    rfl

theorem evict_entries (b : Bay) : (evict e b s).registry.entries = upd s.registry.entries e fun n =>
    { n with saved := { n.saved with debt := 0, residue := 0, doubt := none } } := by
  obtain ⟨-, -, -, -, -, -, -, -, -, hentries, -⟩ := writeOff_rest s.registry.entries[e].saved.volume (some b) s
  unfold evict
  rw [modEntry_registry]
  dsimp only
  rw [hentries]

end

/-- Settles O51: each row of the table by what its search finds. -/
theorem lookupFindsHoldsCreatesOrEvicts : Obligations.LookupFindsHoldsCreatesOrEvicts := by
  unfold Obligations.LookupFindsHoldsCreatesOrEvicts
  intro b k s
  refine ⟨fun e he honly => ⟨fun hbay => ?_, fun hbay => ?_⟩, fun hnone => ⟨fun e hinvalid hlow => ?_,
    fun hfull e hgoes hleast => ?_⟩⟩
  · exact lookup_of_found (find_of_holder he honly) hbay
  · exact lookup_of_held (find_of_holder he honly) hbay
  · have hunused : s.registry.unused = some e :=
      find_of_least (by rw [hinvalid]; rfl) fun f hf => by rw [hlow f hf]; rfl
    dsimp only
    rw [lookup_of_unused (find_of_no_holder hnone) hunused]
    exact ⟨⟨rfl, createEntry_fills (fun _ _ => rfl) rfl rfl rfl⟩, rfl, rfl⟩
  · have hunused : s.registry.unused = none := List.find?_eq_none.mpr fun f _ => by rw [hfull f]; decide
    have hordered : (allEntries.filter s.evictable).Pairwise (· < ·) := (List.pairwise_lt_finRange 48).filter _
    have hchoice : s.evictionChoice = some e := by
      refine leastSeen_of_least hordered ?_ fun f hf => ?_
      · exact List.mem_filter.mpr ⟨mem_allEntries e, (evictable_iff (hfull e)).mpr hgoes⟩
      · exact hleast f ((evictable_iff (hfull f)).mp (List.mem_filter.mp hf).2)
    have hentries := evict_entries (s := s) (e := e) b
    obtain ⟨hzero, hpos⟩ := evict_header (s := s) (e := e) b
    dsimp only
    rw [lookup_of_evicted (find_of_no_holder hnone) hunused hchoice, ← volume_eq]
    refine ⟨⟨rfl, createEntry_fills (fun f hf => ?_) ?_ ?_ ?_⟩, hzero, hpos⟩
    · rw [hentries]
      exact upd_ne _ _ _ _ hf
    all_goals rw [hentries, upd_self]

end Sys2Proof.Machine
end

section
/-! SUPPORT. The admission controller's steps, and the ends of the proof engine's services (R28 to R32, R38 to R40). -/

namespace Sys2Proof.Machine

/-! ### Identification (R29) -/

section
variable {p : Profile} {b : Bay} {id : List Byte}

theorem identificationFault_of_blank (h : ∀ x ∈ id, x = 0xFF#8) : identificationFault p b id = some .blank :=
  if_pos (List.all_eq_true.mpr fun x hx => beq_iff_eq.mpr (h x hx))

/-- The checks that an image with content goes through. -/
theorem identificationFault_of_content (h : ¬∀ x ∈ id, x = 0xFF#8) : identificationFault p b id =
    if pageFormat id ≠ 1 then some .foreign
    else if !p.makers.contains (pageMaker id) then some .foreign
    else if pageInk id ≠ p.bays[b].ink then some .wrongInk
    else if 3 < pageKeySlot id || keyEmpty p.keys[slotOf id] then some .keyUnknown
    else if pageCapacity id = 0 then some .foreign
    else none := by
  refine if_neg fun hall => h fun x hx => ?_
  exact beq_iff_eq.mp (List.all_eq_true.mp hall x hx)

theorem noKey_iff : (3 < pageKeySlot id || keyEmpty p.keys[slotOf id]) = true ↔
    3 < field id 11 1 ∨ p.keys[slotOf id] = BitVec.allOnes 128 := by
  rw [Bool.or_eq_true, decide_eq_true_eq, keyEmpty, beq_iff_eq]
  rfl

theorem unknownMaker_iff : (!p.makers.contains (pageMaker id)) = true ↔ field id 8 2 ∉ p.makers := by
  rw [Bool.not_eq_true', List.contains_eq_mem, decide_eq_false_iff_not]
  rfl

/-- The checks of an image of the known format from a maker of the profile. -/
theorem identificationFault_of_known (h : ¬∀ x ∈ id, x = 0xFF#8) (hformat : ¬field id 15 1 ≠ 1)
    (hmaker : ¬field id 8 2 ∉ p.makers) : identificationFault p b id =
    if BitVec.ofNat 8 (field id 10 1) ≠ p.bays[b].ink then some .wrongInk
    else if 3 < pageKeySlot id || keyEmpty p.keys[slotOf id] then some .keyUnknown
    else if field id 12 3 = 0 then some .foreign
    else none := by
  have hformat : ¬pageFormat id ≠ 1 := hformat
  rw [identificationFault_of_content h, if_neg hformat, if_neg (mt unknownMaker_iff.mp hmaker)]
  rfl

end

/-! ### The bay context's moves -/

section
variable {b : Bay} {s : State}

theorem modCtx_modCtx (f g : BayContext → BayContext) : (s.modCtx b f).modCtx b g = s.modCtx b fun c => g (f c) := by
  unfold State.modCtx
  dsimp only
  rw [upd_upd]

theorem modCtx_congr {f g : BayContext → BayContext} (h : f s.ctx[b] = g s.ctx[b]) : s.modCtx b f = s.modCtx b g := by
  unfold State.modCtx
  rw [upd_congr h]

theorem modCtx_at (f : BayContext → BayContext) : (s.modCtx b f).ctx[b] = f s.ctx[b] := by
  rw [modCtx_ctx, upd_self]

theorem arbitrate_setProof (p : ProofEngine) : arbitrate b { s with proof := p } = { arbitrate b s with proof := p } := by
  unfold arbitrate
  split <;> rfl

/-! ### The identity pages (R28, R29) -/

theorem admissionOutcome_of_identifying {c : Claim} {o : LineOutcome} (h : s.ctx[b].state = .identifying) :
    admissionOutcome b c o s = identityPeek b c.page o s := by
  unfold admissionOutcome
  rw [h]

theorem admissionOutcome_of_checking {c : Claim} {o : LineOutcome} (h : s.ctx[b].state = .checking) :
    admissionOutcome b c o s = checkingPeek b c.page o s := by
  unfold admissionOutcome
  rw [h]

theorem admissionOutcome_of_proving {c : Claim} {o : LineOutcome} (h : s.ctx[b].state = .proving) :
    admissionOutcome b c o s = proveOutcome b o s := by
  unfold admissionOutcome
  rw [h]

theorem identityPeek_of_second {p0 p1 : List Byte} (h : s.ctx[b].heldPage = some p0) : identityPeek b 1 (.success p1) s =
    identificationChecks b (p0 ++ p1)
      (s.modCtx b fun c => { c with identity := some (p0 ++ p1), heldPage := none, awaitLine := false }) := by
  unfold identityPeek
  rw [h]
  rfl

theorem identificationChecks_of_fault {id : List Byte} {r : RejectReason}
    (h : identificationFault s.profile b id = some r) : identificationChecks b id s = reject b r s := by
  unfold identificationChecks
  rw [h]

theorem identificationChecks_of_none {id : List Byte} (h : identificationFault s.profile b id = none) :
    identificationChecks b id s = enterProving b s := by
  unfold identificationChecks
  rw [h]

theorem enterProving_eq : enterProving b s = requestProof b .admission .nonce
    (s.modCtx b fun c => { c.dropHeld with attempts := 0, state := .proving, awaitProof := true }) := by
  unfold enterProving beginAttempt
  rw [modCtx_modCtx]
  rfl

/-! ### The proof attempt (R30, R31) -/

theorem settleProof_of_waiting (h : s.ctx[b].heldProve = none ∨ s.ctx[b].heldExpected = none) : settleProof b s = s := by
  unfold settleProof
  split
  · next hr hx =>
    obtain h | h := h
    · rw [hr] at h; cases h
    · rw [hx] at h; cases h
  · rfl

theorem settleProof_of_held {r : ProveResult} {x : List Byte} (hr : s.ctx[b].heldProve = some r)
    (hx : s.ctx[b].heldExpected = some x) :
    settleProof b s = if r = .response x then enterChecking b s else failedAttempt b s := by
  unfold settleProof
  rw [hr, hx]

theorem failedAttempt_of_first (h : s.ctx[b].attempts = 0) : failedAttempt b s = requestProof b .admission .nonce
    (s.modCtx b fun c => { c.dropHeld with attempts := 1, state := .proving, awaitProof := true }) := by
  unfold failedAttempt
  dsimp only
  rw [h, if_neg (by decide), beginAttempt, modCtx_modCtx]
  rfl

theorem failedAttempt_of_second (h : s.ctx[b].attempts = 1) : failedAttempt b s =
    post .bayRejected (some b) (toLE 1 RejectReason.counterfeit.code)
      (s.modCtx b fun c => { c.dropHeld with attempts := 2, state := .rejected }) := by
  unfold failedAttempt
  dsimp only
  rw [h, if_pos (by decide), reject, modCtx_modCtx]
  rfl

/-! ### Checking (R32) -/

theorem checkingComplete_of_waiting (h : s.ctx[b].marks = none ∨ s.ctx[b].heldCheck = none) :
    checkingComplete b s = s := by
  unfold checkingComplete
  split
  · next hm hg =>
    obtain h | h := h
    · rw [hm] at h; cases h
    · rw [hg] at h; cases h
  · rfl

/-! ### Results of the proof engine (R30, R32, R40) -/

theorem admissionResult_of_unawaited {i : ProofInputs} {x : List Byte} (h : s.ctx[b].awaitProof = false) :
    admissionResult b i x s = s := if_neg (ne_true_of_eq_false h)

theorem admissionResult_of_awaited_proof {slot : Fin 4} {serial : BitVec 64} {nonce x : List Byte}
    (h : s.ctx[b].awaitProof = true) (hstate : s.ctx[b].state = .proving) :
    admissionResult b (.proof slot serial nonce) x s = expectedArrives b x s := by
  unfold admissionResult
  rw [if_pos h, hstate]

theorem admissionResult_of_awaited_check {slot : Fin 4} {serial : BitVec 64} {level use : Nat} {stamp : BitVec 32}
    {x : List Byte} (h : s.ctx[b].awaitProof = true) (hstate : s.ctx[b].state = .checking) :
    admissionResult b (.check slot serial level use stamp) x s = checkArrives b x s := by
  unfold admissionResult
  rw [if_pos h, hstate]

theorem admissionResult_of_awaited_nonce {x : List Byte} (h : s.ctx[b].awaitProof = true)
    (hstate : s.ctx[b].state = .proving) : admissionResult b .nonce x s = nonceArrives b x s := by
  unfold admissionResult
  rw [if_pos h, hstate]

theorem admissionResult_of_past {i : ProofInputs} {x : List Byte}
    (h : s.ctx[b].awaitProof = false ∨ (s.ctx[b].state ≠ .proving ∧ s.ctx[b].state ≠ .checking)) :
    admissionResult b i x s = s := by
  obtain h | ⟨hproving, hchecking⟩ := h
  · exact admissionResult_of_unawaited h
  · unfold admissionResult
    split
    · split
      · next hstate => exact absurd hstate hproving
      · next hstate => exact absurd hstate hproving
      · next hstate => exact absurd hstate hchecking
      · rfl
    · rfl

end

/-- Settles O50: the outcomes and the results by the bay's state. -/
theorem identityAndProofJudged : Obligations.IdentityAndProofJudged := by
  unfold Obligations.IdentityAndProofJudged
  refine ⟨fun p b id => ?identify, fun b s => ?steps⟩
  case identify =>
    refine ⟨identificationFault_of_blank, fun hcontent hforeign => ?_, fun hcontent hformat hmaker hink => ?_,
      fun hcontent hformat hmaker hink hkey => ?_, fun hcontent hformat hmaker hink hkey => ?_⟩
    · rw [identificationFault_of_content hcontent]
      split
      · rfl
      · next hformat => rw [if_pos (unknownMaker_iff.mpr (hforeign.resolve_left hformat))]
    · rw [identificationFault_of_known hcontent hformat hmaker]
      exact if_pos hink
    · rw [identificationFault_of_known hcontent hformat hmaker, if_pos (noKey_iff.mpr hkey)]
      exact if_neg hink
    · rw [identificationFault_of_known hcontent hformat hmaker, if_neg (mt noKey_iff.mp hkey)]
      exact if_neg hink
  case steps =>
    have peeked {page : Nat} {f : BayContext → BayContext} (hpage : page < 32) (hstate : (f s.ctx[b]).state ≠ .empty) :=
      admissionClaim_peek (b := b) (s := s.modCtx b f) (by rw [modCtx_at]; exact hstate) hpage
    refine ⟨fun hstate => ⟨fun d c hc => ?_, fun p0 p1 hheld => ⟨fun r hfault c hc => ?_, fun hgood c hc => ?_⟩⟩,
      fun hstate => ⟨fun d => ⟨fun c hc => ?_, fun c hc => ?_⟩, fun slot serial level use stamp code hawait => ?_⟩,
      fun page o ho hstate c _ => ?_,
      fun hstate => ⟨fun d c _ => ?_, fun o ho c _ => ?_, fun slot serial nonce x hawait => ?_⟩,
      settleProof_of_waiting, checkingComplete_of_waiting, fun i x => admissionResult_of_unawaited,
      fun r x hr hx => ⟨fun hsame => ?_, fun hother hfirst => ?_, fun hother hsecond => ?_⟩⟩
    · rw [admissionOutcome_of_identifying hstate, hc]
      exact peeked (by decide) (by rw [hstate]; decide)
    · rw [admissionOutcome_of_identifying hstate, hc, identityPeek_of_second hheld,
        identificationChecks_of_fault (s := s.modCtx b _) hfault, reject, modCtx_modCtx]
      rfl
    · rw [admissionOutcome_of_identifying hstate, hc, identityPeek_of_second hheld,
        identificationChecks_of_none (s := s.modCtx b _) hgood, enterProving_eq, modCtx_modCtx]
      rfl
    · rw [admissionOutcome_of_checking hstate, hc]
      exact congrArg (requestProof b .admission _) (peeked (by decide) (by rw [hstate]; decide))
    · rw [admissionOutcome_of_checking hstate, hc]
      rfl
    · rw [admissionResult_of_awaited_check hawait hstate]
      rfl
    · obtain hstate | hstate | ⟨hstate, hnot⟩ := hstate
      · rw [admissionOutcome_of_identifying hstate]
        obtain rfl | rfl | rfl := ho <;> rfl
      · rw [admissionOutcome_of_checking hstate]
        obtain rfl | rfl | rfl := ho <;> rfl
      · rw [admissionOutcome_of_proving hstate]
        obtain rfl | rfl | rfl := ho
        · rfl
        · rfl
        · exact absurd rfl hnot
    · rw [admissionOutcome_of_proving hstate]
      rfl
    · rw [admissionOutcome_of_proving hstate]
      obtain rfl | rfl := ho <;> rfl
    · rw [admissionResult_of_awaited_proof hawait hstate]
      rfl
    · rw [settleProof_of_held hr hx, if_pos hsame]
      exact peeked (by decide) nofun
    · rw [settleProof_of_held hr hx, if_neg hother, failedAttempt_of_first hfirst]
      rfl
    · rw [settleProof_of_held hr hx, if_neg hother, failedAttempt_of_second hsecond]
      rfl

/-! ### The end of a service (R39) -/

section
variable {s : State} {r : ProofRequest}

theorem serviceEnds_of_service (h : s.proof.service = some r) : serviceEnds s =
    let t := deliver r (proofResult s r.inputs) (proofComputed r.inputs s)
    { t with proof := t.proof.advance } := by
  unfold serviceEnds
  rw [h]

/-- A service whose result goes to nobody leaves the engine's advance and what the computation used up. -/
theorem serviceEnds_of_undelivered (h : s.proof.service = some r)
    (hdeliver : ∀ x, deliver r x (proofComputed r.inputs s) = proofComputed r.inputs s) :
    let drawn := if r.inputs = .nonce then 1 else 0
    serviceEnds s = { s with
      proof := { service := s.proof.fifo.head?, fifo := s.proof.fifo.tail, draws := s.proof.draws + BitVec.ofNat 32 drawn }
      freeCount := s.freeCount + drawn } := by
  intro drawn
  rw [serviceEnds_of_service h]
  dsimp only
  rw [hdeliver]
  have hkept (hi : r.inputs ≠ .nonce) : drawn = 0 := if_neg hi
  cases hi : r.inputs with
  | nonce =>
    have hdrawn : drawn = 1 := if_pos hi
    rw [hdrawn]
    rfl
  | proof slot serial nonce =>
    rw [hkept (by rw [hi]; nofun)]
    simp [proofComputed, ProofEngine.advance]
  | check slot serial level use stamp =>
    rw [hkept (by rw [hi]; nofun)]
    simp [proofComputed, ProofEngine.advance]

theorem deliver_of_cancelled {x : List Byte} {t : State} (h : r.cancelled = true) : deliver r x t = t := if_pos h

theorem deliver_of_admission {x : List Byte} {t : State} (h : r.cancelled = false) (hwho : r.requester = .admission) :
    deliver r x t = admissionResult r.bay r.inputs x t := by
  unfold deliver
  rw [if_neg (ne_true_of_eq_false h), hwho]

theorem proofComputed_ctx (i : ProofInputs) (s : State) : (proofComputed i s).ctx = s.ctx := by
  cases i <;> rfl

/-- The nonce's arrival makes the PROVE claim and the request for the expected response (R30). -/
theorem nonceArrives_eq {b : Bay} {x : List Byte} (hstate : s.ctx[b].state ≠ .empty) : nonceArrives b x s =
    let id := s.ctx[b].identity.getD []
    let t := arbitrate b { s with
      ctx := upd s.ctx b fun y => { y with nonce := some x, awaitLine := true, awaitProof := true }
      lines := upd s.lines b fun u => { u with waiting := { u.waiting with admission := some {
        claimant := .admission, command := .prove, page := 0, offset := 0, length := 16, data := x } } } }
    { t with proof := t.proof.enqueue { bay := b, requester := .admission, cancelled := false,
                                        inputs := .proof (slotOf id) (pageSerial id) x } } := by
  unfold nonceArrives admissionClaim
  rw [claimArrives_of_passes (by rw [modCtx_at]; exact hstate) rfl]
  rfl

theorem arbitrate_proof (b : Bay) (s : State) : (arbitrate b s).proof = s.proof := by
  unfold arbitrate
  split <;> rfl

/-- A request that joins during a service stands behind those that wait, and the first of them all is served next. -/
theorem serviceHandsOver {t u : State} {q : ProofRequest} (hservice : u.proof.service = some r) (ht : t.proof = u.proof) :
    ({ t with proof := (t.proof.enqueue q).advance } : State) = { t with
      proof := { service := (u.proof.fifo ++ [q]).head?, fifo := (u.proof.fifo ++ [q]).tail, draws := u.proof.draws } } := by
  unfold ProofEngine.enqueue ProofEngine.advance
  rw [ht, hservice]

end

/-- Settles O49: a result that nobody takes, the nonce's, and any other. -/
theorem proofServiceDeliversAndServesTheNext : Obligations.ProofServiceDeliversAndServesTheNext := by
  unfold Obligations.ProofServiceDeliversAndServesTheNext
  intro s hpow
  have hexec : exec .proofServiceDone s = .next (finish (serviceEnds s)) := exec_of_powered (by decide) rfl hpow
  rw [hexec]
  refine ⟨fun hnone => by rw [serviceEnds, hnone], fun r hserved => ⟨fun hcancel => ?_, fun hkept hwho hpast => ?_,
    fun hkept hwho hnonce hawait hstate => ?_, fun hkept hother => ?_⟩⟩
  · rw [serviceEnds_of_undelivered hserved fun x => deliver_of_cancelled hcancel]
  · rw [serviceEnds_of_undelivered hserved fun x => ?_]
    rw [deliver_of_admission hkept hwho]
    exact admissionResult_of_past (by rw [proofComputed_ctx]; exact hpast)
  · refine ⟨proofResult s .nonce, rfl, rfl, ?_⟩
    have hservice : (proofComputed .nonce s).proof.service = some r := hserved
    have hctx : (proofComputed .nonce s).ctx = s.ctx := rfl
    rw [serviceEnds_of_service hserved, deliver_of_admission hkept hwho, hnonce]
    dsimp only
    rw [admissionResult_of_awaited_nonce (by rw [hctx]; exact hawait) (by rw [hctx]; exact hstate),
      nonceArrives_eq (by rw [hctx, hstate]; decide)]
    refine congrArg (fun u => Host.Outcome.next (finish u)) ((serviceHandsOver hservice ?_).trans (arbitrate_setProof _).symm)
    exact arbitrate_proof _ _
  · rw [serviceEnds_of_service hserved]
    have hsame : proofComputed r.inputs s = s := by
      cases hi : r.inputs with
      | nonce => exact absurd hi hother
      | _ => rfl
    dsimp only
    rw [hsame, deliver, if_neg (ne_true_of_eq_false hkept)]
    cases hi : r.inputs with
    | nonce => exact absurd hi hother
    | proof slot serial nonce => cases r.requester <;> rfl
    | check slot serial level use stamp => cases r.requester <;> rfl

end Sys2Proof.Machine
end

section
/-! SUPPORT. The verdict unit while a bay is admitted: the new action, the allowance's draw, the level notices and the
escalation (R37, R94, R95, R128, R132). -/

namespace Sys2Proof.Machine

/-! ### The new action of a bay (R37) -/

section
variable {b : Bay} {a : Action} {s : State}

theorem changeAction_of_settled (h : s.ctx[b].state.settled = true) : (changeAction b a s).ctx =
    upd s.ctx b fun c => { c with action := some a, state := a.bayState } := by
  unfold changeAction
  rw [modCtx_ctx]
  exact upd_congr (if_pos h)

theorem changeAction_of_faulted (h : s.ctx[b].state = .faulted) (howner : s.ctx[b].owner ≠ none) :
    (changeAction b a s).ctx = upd s.ctx b fun c => { c with action := some a } := by
  unfold changeAction
  rw [modCtx_ctx]
  refine upd_congr ?_
  rw [if_neg (by rw [h]; decide), if_pos ⟨h, howner⟩]

theorem changeAction_ne {c : Bay} (h : c ≠ b) : (changeAction b a s).ctx[c] = s.ctx[c] := by
  unfold changeAction
  rw [modCtx_ctx, upd_ne _ _ _ _ h]

end

/-! ### The allowance (R128) -/

section
variable {b : Bay} {e : EntryIx} {v : Nat} {s : State}

theorem modEntry_congr {f g : Entry → Entry} (h : f s.registry.entries[e] = g s.registry.entries[e]) :
    s.modEntry e f = s.modEntry e g := by
  unfold State.modEntry
  rw [upd_congr h]

/-- BLOCK in the bay that the entry owns, when it owns one. -/
def blockOwned (e : EntryIx) (s : State) : State := (s.ownedBay e).elim s fun c => changeAction c .block s

theorem drawAllowance_of_none (h : v = 0 ∨ s.registry.entries[e].saved.held ≠ .limit) : drawAllowance b e v s = s := by
  unfold drawAllowance
  dsimp only
  rw [if_pos h]

theorem drawAllowance_of_left (hlimit : s.registry.entries[e].saved.held = .limit) (hv : 0 < v)
    (h : v < s.registry.entries[e].saved.allowance ∨ s.registry.entries[e].saved.allowance = 0) :
    drawAllowance b e v s = s.modEntry e fun n =>
      { n with saved := { n.saved with allowance := n.saved.allowance - v }, dirty := n.dirty || s.part == .drain } := by
  unfold drawAllowance
  dsimp only
  rw [if_neg (by rintro (hzero | hother); exacts [hv.ne' hzero, hother hlimit]), if_neg (by omega)]
  exact modEntry_congr rfl

theorem drawAllowance_of_spent (hlimit : s.registry.entries[e].saved.held = .limit)
    (hpos : 0 < s.registry.entries[e].saved.allowance) (h : s.registry.entries[e].saved.allowance ≤ v) :
    drawAllowance b e v s = post .allowanceSpent (some b) [] (blockOwned e (s.modEntry e fun n =>
      { n with saved := { n.saved with allowance := 0, held := .block }, dirty := true })) := by
  have hleft : s.registry.entries[e].saved.allowance - v = 0 := Nat.sub_eq_zero_of_le h
  unfold drawAllowance
  dsimp only
  rw [if_neg (by rintro (hzero | hother); exacts [by omega, hother hlimit]), if_pos ⟨hpos, hleft⟩, hleft]
  unfold State.modEntry blockOwned
  dsimp only
  rw [upd_upd]
  split
  · next c hc => exact congrArg _ (by rw [hc]; rfl)
  · next hnone => exact congrArg _ (by rw [hnone]; rfl)

theorem blockOwned_registry : (blockOwned e s).registry = s.registry := by
  unfold blockOwned
  cases s.ownedBay e <;> rfl

theorem blockOwned_notices : (blockOwned e s).notices = s.notices := by
  unfold blockOwned
  cases s.ownedBay e <;> rfl

theorem blockOwned_pool : (blockOwned e s).pool = s.pool := by
  unfold blockOwned
  cases s.ownedBay e <;> rfl

theorem blockOwned_of_none (h : ∀ c : Bay, s.ctx[c].owner ≠ some e) : blockOwned e s = s := by
  rw [blockOwned, ownedBay_of_none h, Option.elim_none]

theorem blockOwned_of_one {c : Bay} (hc : s.ctx[c].owner = some e) (hone : ∀ d : Bay, s.ctx[d].owner = some e → d = c) :
    blockOwned e s = changeAction c .block s := by
  rw [blockOwned, ownedBay_of_one hc hone, Option.elim_some]

end

/-- Settles O26: no draw, a draw that leaves some, and the draw that spends the allowance. -/
theorem allowanceDrawnAtSwathEnd : Obligations.AllowanceDrawnAtSwathEnd := by
  unfold Obligations.AllowanceDrawnAtSwathEnd
  intro b e v s
  refine ⟨drawAllowance_of_none, drawAllowance_of_left, fun hlimit hpos hle => ?_⟩
  dsimp only
  rw [drawAllowance_of_spent hlimit hpos hle, post_registry, blockOwned_registry, post_ctx]
  refine ⟨rfl, post_notices_congr _ _ _ blockOwned_notices (congrArg _ blockOwned_pool), fun hnone => ?_,
    fun c hc hone => ?_⟩
  · rw [blockOwned_of_none (s := s.modEntry e _) hnone, modEntry_ctx]
  · rw [blockOwned_of_one (s := s.modEntry e _) hc hone]
    refine ⟨fun d hd => changeAction_ne (s := s.modEntry e _) hd, fun hsettled => ?_, fun hfaulted => ?_⟩
    · rw [changeAction_of_settled (s := s.modEntry e _) hsettled, upd_self]
      rfl
    · rw [changeAction_of_faulted (s := s.modEntry e _) hfaulted (by rw [modEntry_ctx, hc]; nofun), upd_self]
      rfl

/-! ### Level notices and the overdraw test (R94, R95) -/

section
variable {b : Bay} {e : EntryIx} {s : State}

theorem levelNotices_of_low (hlow : s.commits[b].newLevel < lowMark s b) (hfirst : s.commits[b].lowPosted = false) :
    levelNotices b s =
      let t := post .levelLow (some b) (toLE 3 s.commits[b].newLevel) (s.modCommit b fun c => { c with lowPosted := true })
      if s.commits[b].newLevel = 0 ∧ 0 < s.commits[b].priorLevel then post .levelZero (some b) [] t else t := by
  have hnotice : s.commits[b].newLevel < lowMark s b ∧ s.commits[b].lowPosted = false := ⟨hlow, hfirst⟩
  unfold levelNotices
  dsimp only
  rw [if_pos hnotice]

theorem levelNotices_of_not_low (h : lowMark s b ≤ s.commits[b].newLevel ∨ s.commits[b].lowPosted = true) :
    levelNotices b s =
      if s.commits[b].newLevel = 0 ∧ 0 < s.commits[b].priorLevel then post .levelZero (some b) [] s else s := by
  have hno : ¬(s.commits[b].newLevel < lowMark s b ∧ s.commits[b].lowPosted = false) := by
    rintro ⟨hlow, hfirst⟩
    obtain hhigh | hposted := h
    · exact hlow.not_ge hhigh
    · rw [hfirst] at hposted
      cases hposted
  unfold levelNotices
  dsimp only
  rw [if_neg hno]

theorem overMargin_iff {overdraw capacity margin : Nat} :
    overMargin overdraw capacity margin = true ↔ capacity * margin < overdraw * 100 := decide_eq_true_iff

theorem overdrawTest_of_within (h : s.commits[b].excess = 0 ∨ s.registry.entries[e].saved.overdraw * 100 ≤
    pageCapacity (s.ctx[b].identity.getD []) * s.profile.margin) : overdrawTest b e s = s := by
  refine if_neg ?_
  rintro ⟨hexcess, hover⟩
  have hover := overMargin_iff.mp hover
  omega

/-! ### Escalation (R132) -/

theorem escalates_iff {h a : Action} {w n : Nat} : escalates h w a n = true ↔
    h.strength < a.strength ∨ (h = .limit ∧ a = .limit ∧ n < w) := by
  unfold escalates
  rw [Bool.or_eq_true, Bool.and_eq_true, Bool.and_eq_true, decide_eq_true_eq, decide_eq_true_eq, beq_iff_eq, beq_iff_eq,
    and_assoc]

/-- An escalation that changes the worst verdict or the action: the entry, the bay when the action changes, the notice. -/
theorem escalated_of_change
    (h : ¬(strongerWorst s.profile.policy s.registry.entries[e].saved.worst .overdrawn = s.registry.entries[e].saved.worst ∧
      escalates s.registry.entries[e].saved.held s.registry.entries[e].saved.allowance
        (s.profile.policy.action .overdrawn) (s.profile.policy.allowance .overdrawn) = false)) :
    escalated b e s =
      let x := s.registry.entries[e].saved
      let a := s.profile.policy.action .overdrawn
      let n := s.profile.policy.allowance .overdrawn
      let up := escalates x.held x.allowance a n = true
      let held := if up then a else x.held
      let allowance := if up ∧ a = .limit then (if x.held = .limit then min x.allowance n else n) else x.allowance
      post .refillVerdict (some b)
        ([0x05#8] ++ toLE 1 held.code ++ toLE 3 (if held = .limit then allowance / 1000000000 else 0))
        { s with
          registry := { s.registry with entries := upd s.registry.entries e fun m =>
            { m with saved := { m.saved with worst := strongerWorst s.profile.policy x.worst .overdrawn, held := held,
                                             allowance := allowance }, dirty := true } }
          ctx := if up then (changeAction b a s).ctx else s.ctx } := by
  unfold escalated
  dsimp only
  rw [if_neg h]
  by_cases hup : escalates s.registry.entries[e].saved.held s.registry.entries[e].saved.allowance
      (s.profile.policy.action .overdrawn) (s.profile.policy.allowance .overdrawn) = true
  · rw [if_pos hup, if_pos hup, if_pos hup, if_pos hup, ite_and, if_pos hup]
    rfl
  · rw [if_neg hup, if_neg hup, if_neg hup, if_neg hup, ite_and, if_neg hup]
    rfl

end

/-- Settles O57: the notices by the low mark and level 0, the test by the margin, the escalation by whether it changes. -/
theorem levelNoticesAndEscalation : Obligations.LevelNoticesAndEscalation := by
  unfold Obligations.LevelNoticesAndEscalation
  intro b e s
  refine ⟨fun hlow hfirst hnot => ?_, fun hlow hfirst hzero hprior => ?_, levelNotices_of_not_low,
    overdrawTest_of_within, fun hexcess hover => if_pos ⟨hexcess, overMargin_iff.mpr hover⟩, escalated b e s, escalate_eq b e s,
    fun hworst hup => ?_, fun hchange => ?_⟩
  · rw [levelNotices_of_low hlow hfirst]
    exact if_neg fun ⟨hzero, hprior⟩ => hnot.elim (absurd hzero) hprior.ne'
  · rw [levelNotices_of_low hlow hfirst]
    exact if_pos ⟨hzero, hprior⟩
  · unfold escalated
    dsimp only
    exact if_pos ⟨hworst, Bool.eq_false_iff.mpr (mt escalates_iff.mp hup)⟩
  · have hchange := escalated_of_change (b := b) (e := e) (s := s) fun ⟨hworst, hup⟩ =>
      hchange.elim (absurd hworst) fun h => Bool.eq_false_iff.mp hup (escalates_iff.mpr h)
    simp only [escalates_iff] at hchange
    rw [hchange]
    refine ⟨post_registry .., post_notices_congr _ _ _ rfl rfl, post_lines .., post_marks .., post_commits .., post_proof ..,
      post_link .., post_tracker .., post_meter .., post_part .., post_poolPend .., post_poolCarry ..,
      fun hsame => (post_ctx ..).trans (if_neg hsame), fun hup hsettled => ?_, fun hup hfaulted howner => ?_⟩
    · exact (post_ctx ..).trans ((if_pos hup).trans (changeAction_of_settled hsettled))
    · exact (post_ctx ..).trans ((if_pos hup).trans (changeAction_of_faulted hfaulted howner))

end Sys2Proof.Machine
end

section
/-! SUPPORT. The mark writer: which slot is free, how a listed stamp is claimed or given up, and what an outcome leaves
(R133 to R136). -/

namespace Sys2Proof.Machine

/-! ### The slots of a marks image (R4) -/

section
variable {img : List Byte} {k : Verdict}

theorem markSlots_eq : markSlots = List.range 7 := rfl

theorem lowestBlank_eq_some {slot : Nat} : lowestBlank img = some slot ↔
    slot ≤ 6 ∧ field img (4 * slot) 1 = 0xFF ∧ ∀ j : Nat, j < slot → field img (4 * j) 1 ≠ 0xFF := by
  have hblank (j : Nat) : markBlank img j = true ↔ field img (4 * j) 1 = 0xFF := beq_iff_eq
  rw [lowestBlank, markSlots_eq, List.find?_range_eq_some, List.mem_range]
  simp only [Bool.not_eq_true', ← Bool.not_eq_true, hblank]
  constructor
  · rintro ⟨hff, hlt, hlow⟩
    exact ⟨by omega, hff, hlow⟩
  · rintro ⟨hle, hff, hlow⟩
    exact ⟨hff, by omega, hlow⟩

theorem lowestBlank_eq_none : lowestBlank img = none ↔ ∀ j : Nat, j ≤ 6 → field img (4 * j) 1 ≠ 0xFF := by
  have hblank (j : Nat) : markBlank img j = true ↔ field img (4 * j) 1 = 0xFF := beq_iff_eq
  rw [lowestBlank, markSlots_eq, List.find?_range_eq_none]
  simp only [Bool.not_eq_true', ← Bool.not_eq_true, hblank]
  exact forall_congr' fun j => by rw [Nat.lt_succ_iff]

theorem holdsKind_iff : holdsKind img k = true ↔ ∃ j : Nat, j ≤ 6 ∧ field img (4 * j) 1 = k.code := by
  rw [holdsKind, markSlots_eq, List.any_eq_true]
  simp only [List.mem_range, Nat.lt_succ_iff, beq_iff_eq]
  rfl

theorem field_markBytes (p : BitVec 32) (use : Nat) : field (markBytes k p use) 0 1 ≠ 0xFF := by
  have hcode : field (markBytes k p use) 0 1 = k.code := by cases k <;> rfl
  rw [hcode]
  cases k <;> decide

end

/-! ### Claiming a stamp and giving it up (R134) -/

section
variable {b : Bay} {k : Verdict} {ks : List Verdict} {slot : Nat} {s : State}

/-- The claim that stamps a kind into a slot. -/
def stampClaim (b : Bay) (k : Verdict) (slot : Nat) (s : State) : Claim :=
  { claimant := .mark, command := .store, page := 3, offset := 4 * slot, length := 4,
    data := markBytes k s.profile.printerId (pageUse (s.ctx[b].level.getD [])) }

theorem stampClaim_passes {img : List Byte} {t : State} (himg : t.ctx[b].marks = some img)
    (hslot : lowestBlank img = some slot) : screenPasses t.ctx[b] (stampClaim b k slot s) = true := by
  obtain ⟨hle, hff, -⟩ := lowestBlank_eq_some.mp hslot
  have hdiv : 4 * slot / 4 = slot := Nat.mul_div_cancel_left slot (by decide)
  have hblank : markBlank img slot = true := beq_iff_eq.mpr hff
  unfold screenPasses stampClaim
  simp only [himg, hdiv, hblank, Nat.mul_mod_right, hle, decide_true, Bool.and_true, bne_iff_ne, ne_eq, Bool.and_eq_true,
    beq_self_eq_true, true_and]
  exact field_markBytes _ _

/-- The first listed stamp takes the lowest blank slot of the bay's image. -/
theorem startStamps_of_blank {img : List Byte} (himg : s.ctx[b].marks = some img) (hslot : lowestBlank img = some slot)
    (hstate : s.ctx[b].state ≠ .empty) : startStamps b (k :: ks) s = arbitrate b { s with
      marks := upd s.marks b fun _ => { list := ks, inHand := some (k, slot) }
      lines := upd s.lines b fun u => { u with waiting := { u.waiting with mark := some (stampClaim b k slot s) } } } := by
  have hblank : lowestBlank (s.ctx[b].marks.getD []) = some slot := by rw [himg, Option.getD_some, hslot]
  have harrives : claimArrives b (stampClaim b k slot s)
      (s.modMark b fun m => { m with list := ks, inHand := some (k, slot) }) = _ :=
    claimArrives_of_passes (s := s.modMark b _) hstate (stampClaim_passes himg hslot)
  rw [startStamps]
  dsimp only
  rw [hblank]
  dsimp only
  unfold stampClaim at harrives
  rw [harrives]
  rfl

/-- With no blank slot every listed stamp is given up. -/
theorem startStamps_of_full : ∀ (ks : List Verdict) (t : State), lowestBlank (t.ctx[b].marks.getD []) = none →
    startStamps b ks t = (ks.foldl (fun u _ => post .marksFull (some b) [] u) t).modMark b MarkWriter.becomeIdle
  | [], _, _ => rfl
  | _ :: ks, _, hfull => by
    rw [startStamps]
    dsimp only
    rw [hfull]
    exact startStamps_of_full ks _ (by rw [post_ctx, hfull])

theorem foldl_post_marks : ∀ (ks : List Verdict) (t : State),
    (ks.foldl (fun u _ => post .marksFull (some b) [] u) t).marks = t.marks
  | [], _ => rfl
  | _ :: ks, _ => (foldl_post_marks ks _).trans (post_marks ..)

/-! ### A request for a stamp (R133) -/

theorem inHand_kind_iff {o : Option (Verdict × Nat)} : (o.map Prod.fst == some k) = true ↔ ∃ slot, o = some (k, slot) := by
  cases o with
  | none => simp
  | some q =>
    rw [Option.map_some, beq_iff_eq, Option.some_inj]
    exact ⟨fun h => ⟨q.2, by rw [← h]⟩, fun ⟨slot, h⟩ => by rw [Option.some.inj h]⟩

/-- The part is not READY, the bay has no owner, or the kind is on the tag, listed or in hand already. -/
def StampIgnored (b : Bay) (k : Verdict) (s : State) : Prop :=
  s.part ≠ .ready ∨ s.ctx[b].owner = none ∨ (∃ j : Nat, j ≤ 6 ∧ field (s.ctx[b].marks.getD []) (4 * j) 1 = k.code) ∨
    k ∈ s.marks[b].list ∨ ∃ slot : Nat, s.marks[b].inHand = some (k, slot)

theorem listedOrInHand_iff : (s.marks[b].list.contains k || (s.marks[b].inHand.map Prod.fst == some k)) = true ↔
    k ∈ s.marks[b].list ∨ ∃ slot : Nat, s.marks[b].inHand = some (k, slot) := by
  rw [Bool.or_eq_true, List.contains_iff_mem, inHand_kind_iff]

theorem requestStamp_of_ignored (h : StampIgnored b k s) : requestStamp b k s = s := by
  unfold requestStamp
  split
  · rfl
  · next hready =>
    split
    · rfl
    · next howner =>
      split
      · rfl
      · next hkind =>
        refine if_pos (listedOrInHand_iff.mpr ?_)
        exact ((h.resolve_left hready).resolve_left howner).resolve_left (mt holdsKind_iff.mpr hkind)

theorem requestStamp_of_asked (h : ¬StampIgnored b k s) : requestStamp b k s =
    if s.marks[b].inHand = none then startStamps b (s.marks[b].list ++ [k]) s
    else s.modMark b fun m => { m with list := s.marks[b].list ++ [k] } := by
  obtain ⟨hready, howner, hkind, hlist⟩ : ¬s.part ≠ .ready ∧ ¬s.ctx[b].owner = none ∧
      ¬(∃ j : Nat, j ≤ 6 ∧ field (s.ctx[b].marks.getD []) (4 * j) 1 = k.code) ∧
      ¬(k ∈ s.marks[b].list ∨ ∃ slot : Nat, s.marks[b].inHand = some (k, slot)) := by
    simpa only [StampIgnored, not_or] using h
  unfold requestStamp
  rw [if_neg hready, if_neg howner, if_neg (mt holdsKind_iff.mp hkind), if_neg (mt listedOrInHand_iff.mp hlist)]

/-! ### The writer after an outcome (R135) -/

theorem nextStamp_of_idle (h : s.marks[b].list = [] ∨ s.part ≠ .ready) :
    nextStamp b s = s.modMark b MarkWriter.becomeIdle := by
  unfold nextStamp
  split
  · next hready =>
    rw [h.resolve_right (not_not_intro hready)]
    rfl
  · rfl

theorem nextStamp_of_ready (h : s.part = .ready) : nextStamp b s = startStamps b s.marks[b].list s := if_pos h

theorem modMark_becomeIdle {t : State} (h : t.marks = s.marks) : t.modMark b MarkWriter.becomeIdle =
    { t with marks := upd s.marks b fun _ => { list := [], inHand := none } } := by
  unfold State.modMark
  rw [h]
  rfl

/-- The writer after an outcome that leaves `t`, told by the state `s` before it: `now` is the image that `t` holds. -/
theorem nextStamp_settles {t : State} {img now : List Byte} (hmarks : t.marks = s.marks) (hlines : t.lines = s.lines)
    (hpart : t.part = s.part) (hclaim : ∀ k slot, stampClaim b k slot t = stampClaim b k slot s)
    (hstate : t.ctx[b].state = s.ctx[b].state) (himg : s.ctx[b].marks = some img → t.ctx[b].marks = some now) :
    let idle (u : State) : State := { u with marks := upd s.marks b fun _ => { list := [], inHand := none } }
    (s.marks[b].list = [] ∨ s.part ≠ .ready → nextStamp b t = idle t) ∧
    ∀ (next : Verdict) (rest : List Verdict), s.marks[b].list = next :: rest → s.part = .ready →
      s.ctx[b].marks = some img →
      (∀ free : Nat, lowestBlank now = some free → s.ctx[b].state ≠ .empty → nextStamp b t = arbitrate b { t with
        marks := upd s.marks b fun _ => { list := rest, inHand := some (next, free) }
        lines := upd s.lines b fun u =>
          { u with waiting := { u.waiting with mark := some (stampClaim b next free s) } } }) ∧
      (lowestBlank now = none →
        nextStamp b t = idle (s.marks[b].list.foldl (fun u _ => post .marksFull (some b) [] u) t)) := by
  dsimp only
  refine ⟨fun h => ?_, fun next rest hlist hready hsome => ⟨fun free hslot hnonempty => ?_, fun hfull => ?_⟩⟩
  · rw [nextStamp_of_idle (by rwa [hmarks, hpart]), modMark_becomeIdle hmarks]
  · rw [nextStamp_of_ready (hpart.trans hready), hmarks, hlist,
      startStamps_of_blank (himg hsome) hslot (by rwa [hstate]), hclaim, hmarks, hlines]
  · rw [nextStamp_of_ready (hpart.trans hready), startStamps_of_full _ _ (by rw [himg hsome, Option.getD_some, hfull]),
      hmarks, modMark_becomeIdle ((foldl_post_marks ..).trans hmarks)]

end

/-! ### The outcome of a mark claim (R135, R136) -/

section
variable {b : Bay} {k : Verdict} {slot : Nat} {c : Claim} {s : State}

theorem markOutcome_of_success (h : s.marks[b].inHand = some (k, slot)) (d : List Byte) : markOutcome b c (.success d) s =
    nextStamp b (post .markWritten (some b) (toLE 1 slot ++ toLE 1 k.code)
      (s.modCtx b fun x => { x with marks := x.marks.map fun _ => overwrite (s.ctx[b].marks.getD []) (4 * slot) c.data })) := by
  have himage : (s.modCtx b fun x => { x with marks := x.marks.map fun img => overwrite img (4 * slot) c.data }) =
      s.modCtx b fun x => { x with marks := x.marks.map fun _ => overwrite (s.ctx[b].marks.getD []) (4 * slot) c.data } := by
    refine modCtx_congr ?_
    cases hmarks : s.ctx[b].marks <;> rfl
  unfold markOutcome
  rw [h]
  dsimp only
  rw [himage]

theorem markOutcome_of_failure (h : s.marks[b].inHand = some (k, slot)) {o : LineOutcome}
    (ho : o = .denied ∨ o = .programFailed ∨ o = .silent ∨ o = .garbled) :
    markOutcome b c o s = nextStamp b (post .markFailed (some b) [] s) := by
  unfold markOutcome
  rw [h]
  obtain rfl | rfl | rfl | rfl := ho <;> rfl

/-- A stamp's claim is made of the profile, the printer and the level image. -/
theorem stampClaim_congr {t : State} (hcopies : t.copies = s.copies) (hlevel : t.ctx[b].level = s.ctx[b].level)
    (k : Verdict) (slot : Nat) : stampClaim b k slot t = stampClaim b k slot s := by
  unfold stampClaim State.profile
  rw [hcopies, hlevel]

end

/-- Settles O58: the request by what makes the writer ignore it or wait, the outcomes by the next listed stamp. -/
theorem stampsAreListedClaimedAndSettled : Obligations.StampsAreListedClaimedAndSettled := by
  unfold Obligations.StampsAreListedClaimedAndSettled
  intro b s
  refine ⟨fun k => ⟨requestStamp_of_ignored, fun hasked hbusy => ?_, fun hasked hidle hempty => ⟨fun slot hlow himg hstate => ?_,
    fun hfull => ?_⟩⟩, fun k slot c hhand => ⟨fun d => ?_, fun o ho => ?_, fun sent => ?_, ?_⟩⟩
  · rw [requestStamp_of_asked hasked, if_neg hbusy]
    exact congrArg (fun v => { s with marks := v }) (upd_congr rfl)
  · rw [requestStamp_of_asked hasked, if_pos hidle, hempty]
    exact startStamps_of_blank himg (lowestBlank_eq_some.mpr hlow) hstate
  · rw [requestStamp_of_asked hasked, if_pos hidle, hempty]
    exact (startStamps_of_full [k] s (lowestBlank_eq_none.mpr hfull)).trans (modMark_becomeIdle (post_marks ..))
  · dsimp only
    simp only [← lowestBlank_eq_some, ← lowestBlank_eq_none]
    rw [markOutcome_of_success hhand]
    refine nextStamp_settles (post_marks ..) (post_lines ..) (post_part ..)
      (stampClaim_congr (post_copies ..) ?_) ?_ fun himg => ?_
    · rw [post_ctx, modCtx_at]
    · rw [post_ctx, modCtx_at]
    · rw [post_ctx, modCtx_at]
      dsimp only
      rw [himg]
      rfl
  · dsimp only
    simp only [← lowestBlank_eq_some, ← lowestBlank_eq_none]
    rw [markOutcome_of_failure hhand ho]
    refine nextStamp_settles (post_marks ..) (post_lines ..) (post_part ..)
      (stampClaim_congr (post_copies ..) ?_) ?_ fun himg => ?_
    all_goals rw [post_ctx]
    exact himg
  · rfl
  · rfl

end Sys2Proof.Machine
end

section
/-! SUPPORT. What the diversions of the debit pool do to a queue's head, count and total, and where a tally goes (R66 to
R74). -/

namespace Sys2Proof.Machine

/-! ### Queues and their diversions (R68, R69) -/

section
variable {rec : Vector DebitRecord 64} {q f k : Queue} {l m : List RecordIx}

/-- A chain whose queue has no head holds nothing. -/
theorem Queue.Lists.eq_empty (w : q.Lists rec l) (h : q.head = none) : q = Queue.empty := by
  have hl : l = [] := List.head?_eq_none_iff.mp ((linked_head w.chain).symm.trans h)
  subst hl
  obtain ⟨head, tail, count, total⟩ := q
  obtain ⟨-, htail, hcount, htotal⟩ := w
  dsimp only at h htail hcount htotal
  rw [h, htail, hcount, htotal]
  rfl

theorem joinQueues_of_no_front (h : f.head = none) : joinQueues f k rec = (k, rec) := by
  unfold joinQueues
  rw [h]

theorem joinQueues_of_no_back {r : RecordIx} (hf : f.head = some r) (hk : k.head = none) :
    joinQueues f k rec = (f, rec) := by
  unfold joinQueues
  rw [hf, hk]

theorem joinQueues_of_both {r x : RecordIx} (hf : f.head = some r) (hk : k.head = some x) :
    joinQueues f k rec = ({ head := some r, tail := k.tail, count := f.count + k.count, total := f.total + k.total },
      relink rec f.tail (some x)) := by
  unfold joinQueues
  rw [hf, hk]

/-- A diversion adds the counts and the totals. -/
theorem joinQueues_sums (wf : f.Lists rec l) (wk : k.Lists rec m) :
    (joinQueues f k rec).1.count = f.count + k.count ∧ (joinQueues f k rec).1.total = f.total + k.total := by
  cases hf : f.head with
  | none =>
    rw [joinQueues_of_no_front hf, wf.eq_empty hf]
    exact ⟨(Nat.zero_add _).symm, (Nat.zero_add _).symm⟩
  | some r =>
    cases hk : k.head with
    | none =>
      rw [joinQueues_of_no_back hf hk, wk.eq_empty hk]
      exact ⟨rfl, rfl⟩
    | some x =>
      rw [joinQueues_of_both hf hk]
      exact ⟨rfl, rfl⟩

/-- A chain with nothing behind it stays as it is. -/
theorem joinQueues_empty (wf : f.Lists rec l) : joinQueues f Queue.empty rec = (f, rec) := by
  cases hf : f.head with
  | none => rw [joinQueues_of_no_front hf, wf.eq_empty hf]
  | some r => exact joinQueues_of_no_back hf rfl

end

section
variable {b : Bay} {p : DebitPool}

/-- The batch returned to PENDING adds its count and its total. -/
theorem batchToPend_sums (h : p.Partitioned) : (p.batchToPend b).pend[b].total = p.pend[b].total + p.batch[b].total ∧
    (p.batchToPend b).pend[b].count = p.pend[b].count + p.batch[b].count := by
  obtain ⟨free, pe, ba, w⟩ := h.chains
  obtain ⟨hcount, htotal⟩ := joinQueues_sums (w.batch b) (w.pend b)
  unfold DebitPool.batchToPend
  dsimp only
  rw [upd_self, hcount, htotal, Nat.add_comm, Nat.add_comm p.pend[b].count]
  exact ⟨rfl, rfl⟩

theorem batchToPend_batch : (p.batchToPend b).batch = upd p.batch b fun _ => Queue.empty := rfl

theorem pendToFree_pend : (p.pendToFree b).pend = upd p.pend b fun _ => Queue.empty := rfl

theorem batchToFree_batch : (p.batchToFree b).batch = upd p.batch b fun _ => Queue.empty := rfl

/-- PENDING moved onto an empty batch. -/
theorem pendToBatch_of_empty (h : p.batch[b] = Queue.empty) : p.pendToBatch b =
    { p with batch := upd p.batch b fun _ => p.pend[b], pend := upd p.pend b fun _ => Queue.empty } := by
  unfold DebitPool.pendToBatch
  dsimp only
  rw [joinQueues_of_no_front (by rw [h]; rfl)]

/-- A batch formed from PENDING alone and returned leaves the queues as they were. -/
theorem batchToPend_pendToBatch (hp : p.Partitioned) (h : p.batch[b] = Queue.empty) :
    (p.pendToBatch b).batchToPend b = p := by
  obtain ⟨free, pe, ba, w⟩ := hp.chains
  have hpend : upd (upd p.pend b fun _ => Queue.empty) b (fun _ => p.pend[b]) = p.pend := by
    rw [upd_upd]
    exact upd_same rfl
  have hbatch : upd (upd p.batch b fun _ => p.pend[b]) b (fun _ => Queue.empty) = p.batch := by
    rw [upd_upd]
    exact upd_same h.symm
  rw [pendToBatch_of_empty h]
  unfold DebitPool.batchToPend
  dsimp only
  rw [upd_self, upd_self, joinQueues_empty (w.pend b), hpend, hbatch]

/-- The records of a batch join FREE. -/
theorem batchToFree_count (h : p.Partitioned) : (p.batchToFree b).free.count = p.free.count + p.batch[b].count := by
  obtain ⟨free, pe, ba, w⟩ := h.chains
  obtain ⟨hlists, -⟩ := release_spec w (w.batch b) fun r => by have := w.counts b b r; omega
  have hcount : (p.batchToFree b).free.count = _ := hlists.count
  rw [hcount, List.length_append, (w.batch b).count, w.free.count]

end

/-! ### The head record of FREE (R66, R67) -/

section
variable {b : Bay} {p : DebitPool} {r : RecordIx}

/-- Taking the head record leaves the record that it links to at the head. -/
theorem takeFree_of_head (hp : p.Partitioned) (h : p.free.head = some r) :
    p.takeFree = some (r, { p with free := { p.free with
      head := p.records[r].link, tail := if p.free.tail == some r then none else p.free.tail,
      count := p.free.count - 1 } }) := by
  obtain ⟨free, pe, ba, w⟩ := hp.chains
  have hlast : (if p.free.tail == some r then none else p.records[r].link) = p.records[r].link := by
    refine ite_eq_right_iff.mpr fun htail => ?_
    have htail : free.getLast? = some r := w.free.tail.symm.trans (beq_iff_eq.mp htail)
    have hchain := w.free.chain
    have hnodup : free.Nodup := nodup_of_counts fun x => by have := w.counts 0 0 x; omega
    rw [h] at hchain
    match free, hchain, htail, hnodup with
    | [x], hchain, _, _ =>
      obtain ⟨hx, hlink⟩ := hchain
      rw [Option.some.inj hx, hlink]
    | x :: y :: ys, hchain, htail, hnodup =>
      obtain ⟨hx, -⟩ := hchain
      rw [List.getLast?_cons_cons] at htail
      have hmem : r ∈ y :: ys := List.mem_of_getLast? htail
      exact absurd (Option.some.inj hx ▸ hmem) (List.nodup_cons.mp hnodup).1
  unfold DebitPool.takeFree
  rw [h]
  dsimp only
  rw [hlast]

/-- A free record stands in no other chain. -/
theorem Chains.free_not_mem {free : List RecordIx} {pe ba : Bay → List RecordIx} (w : Chains p free pe ba)
    (h : p.free.head = some r) (b : Bay) : r ∉ pe b := by
  have hmem : r ∈ free := List.mem_of_head? ((linked_head w.free.chain).symm.trans h)
  have hone := w.counts b b r
  have hfree := List.count_pos_iff.mpr hmem
  exact List.count_eq_zero.mp (by omega)

theorem relink_ne {rec : Vector DebitRecord 64} {o n : Option RecordIx} (h : o ≠ some r) : (relink rec o n)[r] = rec[r] := by
  cases o with
  | none => rfl
  | some x => exact upd_ne _ _ _ _ fun e => h (congrArg some e.symm)

/-- One record behind a chain that does not hold it: the chain's count and total grow by it, and the record stands. -/
theorem joinQueues_one {rec : Vector DebitRecord 64} {q : Queue} {l : List RecordIx} (w : q.Lists rec l)
    (hr : q.tail ≠ some r) (v : Nat) :
    let j := joinQueues q { head := some r, tail := some r, count := 1, total := v } rec
    j.1 = { head := if q.head = none then some r else q.head, tail := some r, count := q.count + 1,
            total := q.total + v } ∧ j.2[r] = rec[r] := by
  dsimp only
  cases hq : q.head with
  | none =>
    rw [joinQueues_of_no_front hq, if_pos rfl, w.eq_empty hq]
    exact ⟨congrArg (Queue.mk _ _ _) (Nat.zero_add v).symm, rfl⟩
  | some x =>
    rw [joinQueues_of_both hq rfl, if_neg nofun]
    exact ⟨rfl, relink_ne hr⟩

/-- The taken record, filled and put at the tail of PENDING. -/
theorem placeInPending_of_head {swath : BitVec 16} {v : Nat} {s : State} (hp : s.pool.Partitioned)
    (h : s.pool.free.head = some r) :
    let t := placeInPending b swath v s
    t.pool.free.count + 1 = s.pool.free.count ∧ t.pool.free.head = s.pool.records[r].link ∧
      t.pool.records[r] = { link := none, swath := swath, volume := v } ∧
      t.pool.pend = upd s.pool.pend b (fun q =>
        { head := if q.head = none then some r else q.head, tail := some r, count := q.count + 1,
          total := q.total + v }) ∧
      t.pool.batch = s.pool.batch ∧ t.pool.carry = s.pool.carry ∧ t.pool.starved = s.pool.starved ∧
      t.registry = s.registry ∧ t.notices = s.notices := by
  obtain ⟨free, pe, ba, w⟩ := hp.chains
  have hnot := w.free_not_mem h b
  have hcount : s.pool.free.count ≠ 0 := by
    rw [w.free.count]
    exact fun hzero => nomatch h.symm.trans ((linked_head w.free.chain).trans
      (congrArg List.head? (List.length_eq_zero_iff.mp hzero)))
  have hpend : s.pool.pend[b].Lists
      (upd s.pool.records r fun _ => { link := none, swath := swath, volume := v }) (pe b) :=
    (w.pend b).congr fun x hx => by
      have hne : x ≠ r := fun e => hnot (e ▸ hx)
      rw [upd_ne _ _ _ _ hne]
      exact ⟨rfl, rfl⟩
  have htail : s.pool.pend[b].tail ≠ some r := fun e =>
    hnot (List.mem_of_getLast? ((w.pend b).tail.symm.trans e))
  obtain ⟨hqueue, hrecord⟩ := joinQueues_one hpend htail
    (upd s.pool.records r fun _ => { link := none, swath := swath, volume := v })[r].volume
  dsimp only
  rw [placeInPending, takeFree_of_head hp h]
  dsimp only
  unfold DebitPool.fill DebitPool.pushTail
  dsimp only
  rw [hqueue, hrecord, upd_self]
  refine ⟨Nat.sub_add_cancel (Nat.pos_of_ne_zero hcount), rfl, rfl, upd_congr rfl, rfl, rfl, rfl, rfl, rfl⟩

end

/-! ### Carry and debt (R70, R112) -/

section
variable {b : Bay} {e : EntryIx} {swath : BitVec 16} {v : Nat} {s : State}

theorem placeInPending_of_none (h : s.pool.free.head = none) : placeInPending b swath v s = starve b v s := by
  unfold placeInPending DebitPool.takeFree
  rw [h]

theorem placeTally_of_drain (h : s.part = .drain) : placeTally b e swath v s = addDebt e v (s.bayOf e) s := if_pos h

theorem placeTally_of_owner (hpart : s.part ≠ .drain) (howner : s.ctx[b].owner = some e) :
    placeTally b e swath v s = placeInPending b swath v s := by
  unfold placeTally
  rw [if_neg hpart, if_pos howner]

theorem placeTally_of_other {c : Bay} (hpart : s.part ≠ .drain) (howner : s.ctx[b].owner ≠ some e)
    (hc : s.ownedBay e = some c) : placeTally b e swath v s = addCarry c v s := by
  unfold placeTally
  rw [if_neg hpart, if_neg howner, hc]

theorem placeTally_of_nobody (hpart : s.part ≠ .drain) (howner : s.ctx[b].owner ≠ some e) (hnone : s.ownedBay e = none) :
    placeTally b e swath v s = addDebt e v (s.bayOf e) s := by
  unfold placeTally
  rw [if_neg hpart, if_neg howner, hnone]

end

/-- Settles O25: the rows of the destination, each by the lemma about its addition. -/
theorem handedTallyReachesItsOwner : Obligations.HandedTallyReachesItsOwner := by
  unfold Obligations.HandedTallyReachesItsOwner
  intro b e w v s hp
  have hdebt := (addDebt_eq e v (s.bayOf e) s).trans (writeOff_past ..)
  have hcarry (c : Bay) := (addCarry_eq c v s).trans (writeOff_past ..)
  refine ⟨fun hdrain => (placeTally_of_drain hdrain).trans hdebt, fun hpart howner => ?_, fun hpart howner => ?_⟩
  · dsimp only
    rw [placeTally_of_owner hpart howner]
    refine ⟨fun r hr => ?_, fun hnone => ?_⟩
    · obtain ⟨hcount, hhead, hrecord, hpend, hbatch, hcar, hstarved, hreg, hnotices⟩ :=
        placeInPending_of_head (b := b) (swath := w) (v := v) hp hr
      rw [hpend, upd_self]
      exact ⟨hcount, hhead, hrecord, rfl, rfl, rfl, rfl, fun c hc => upd_ne _ _ _ _ hc, hbatch, hcar, hstarved, hreg,
        hnotices⟩
    · rw [placeInPending_of_none hnone, starve, hcarry b]
      rfl
  · exact ⟨fun c hc hone => (placeTally_of_other hpart howner (ownedBay_of_one hc hone)).trans (hcarry c),
      fun hnone => (placeTally_of_nobody hpart howner (ownedBay_of_none hnone)).trans hdebt⟩

end Sys2Proof.Machine
end

section
/-! SUPPORT. The start of a commit: the batch that it forms, absorbs, returns or plans to write (R86 to R89). -/

namespace Sys2Proof.Machine

/-! ### The batch (R86) -/

section
variable {b : Bay} {e : EntryIx} {s : State}

/-- The volume a commit start on the bay takes: PENDING's total, the carry and the residue of the owner. -/
def commitVolume (b : Bay) (e : EntryIx) (s : State) : Nat :=
  s.pool.pend[b].total + s.pool.carry[b] + s.registry.entries[e].saved.residue

theorem formBatch_of_empty (h : s.pool.batch[b] = Queue.empty) : formBatch b e s = { s with
    pool := { s.pool.pendToBatch b with carry := upd s.pool.carry b fun _ => 0 }
    registry := { s.registry with entries := upd s.registry.entries e fun n =>
      { n with saved := { n.saved with residue := 0 } } }
    commits := upd s.commits b fun c => { c with
      batchCarry := s.pool.carry[b], batchResidue := s.registry.entries[e].saved.residue, total := commitVolume b e s,
      charged := commitVolume b e s / 10 ^ 9, newResidue := commitVolume b e s % 10 ^ 9,
      priorLevel := pageLevel (s.ctx[b].level.getD []), priorUse := pageUse (s.ctx[b].level.getD []) } } := by
  have htotal : (s.pool.pendToBatch b).batch[b].total = s.pool.pend[b].total := by
    rw [pendToBatch_of_empty h]
    dsimp only
    rw [upd_self]
  unfold formBatch commitVolume
  dsimp only [modPool_pool]
  rw [htotal]
  rfl

theorem formBatch_charged (h : s.pool.batch[b] = Queue.empty) :
    (formBatch b e s).commits[b].charged = commitVolume b e s / 10 ^ 9 := by
  rw [formBatch_of_empty h]
  dsimp only
  rw [upd_self]

theorem formBatch_priorUse (h : s.pool.batch[b] = Queue.empty) :
    (formBatch b e s).commits[b].priorUse = pageUse (s.ctx[b].level.getD []) := by
  rw [formBatch_of_empty h]
  dsimp only
  rw [upd_self]

theorem commitStart_of_absorbed (h : s.pool.batch[b] = Queue.empty) (hq : commitVolume b e s / 10 ^ 9 = 0) :
    commitStart b e s = absorb b e (formBatch b e s) := by
  unfold commitStart
  dsimp only
  rw [if_pos ((formBatch_charged h).trans hq)]

theorem commitStart_of_spent (h : s.pool.batch[b] = Queue.empty) (hq : 0 < commitVolume b e s / 10 ^ 9)
    (huse : pageUse (s.ctx[b].level.getD []) = 65535) :
    commitStart b e s = refuseCountSpent b e (formBatch b e s) := by
  unfold commitStart
  dsimp only
  rw [if_neg (by rw [formBatch_charged h]; exact hq.ne'), if_pos ((formBatch_priorUse h).trans huse)]

theorem commitStart_of_planned (h : s.pool.batch[b] = Queue.empty) (hq : 0 < commitVolume b e s / 10 ^ 9)
    (huse : pageUse (s.ctx[b].level.getD []) < 65535) : commitStart b e s = planWrite b (formBatch b e s) := by
  unfold commitStart
  dsimp only
  rw [if_neg (by rw [formBatch_charged h]; exact hq.ne'), if_neg (by rw [formBatch_priorUse h]; exact huse.ne)]

/-- The batch formed and returned at once: nothing of it is left but the cleared commit. -/
theorem returnBatch_formBatch (hp : s.pool.Partitioned) (h : s.pool.batch[b] = Queue.empty)
    (hcarry : s.pool.carry[b] ≤ 2 ^ 56 - 1) :
    returnBatch b e (formBatch b e s) = s.modCommit b CommitContext.settle := by
  have hcommit : (formBatch b e s).commits[b].batchCarry = s.pool.carry[b] := by
    rw [formBatch_of_empty h]
    dsimp only
    rw [upd_self]
  have hzero : (formBatch b e s).pool.carry[b] = 0 := upd_self ..
  have hres : (formBatch b e s).commits[b].batchResidue = s.registry.entries[e].saved.residue := by
    rw [formBatch_of_empty h]
    dsimp only
    rw [upd_self]
  have hcarries : upd (upd s.pool.carry b fun _ => 0) b (fun n => n + s.pool.carry[b]) = s.pool.carry := by
    rw [upd_upd]
    exact upd_same (Nat.zero_add _)
  have hentries : upd (upd s.registry.entries e fun n => { n with saved := { n.saved with residue := 0 } }) e (fun n =>
      { n with saved := { n.saved with residue := n.saved.residue + s.registry.entries[e].saved.residue } }) =
      s.registry.entries := by
    rw [upd_upd]
    refine upd_same ?_
    dsimp only
    rw [Nat.zero_add]
  have hpool : ({ ({ s.pool.pendToBatch b with carry := upd s.pool.carry b fun _ => 0 } : DebitPool).batchToPend b with
      carry := upd (upd s.pool.carry b fun _ => 0) b fun n => n + s.pool.carry[b] } : DebitPool) = s.pool := by
    rw [hcarries]
    exact congrArg (fun p : DebitPool => { p with carry := s.pool.carry }) (batchToPend_pendToBatch hp h)
  rw [returnBatch_of_le e (by rw [hcommit, hzero, Nat.zero_add]; exact hcarry), hcommit, hres, formBatch_of_empty h]
  unfold State.modPool State.modEntry State.modCommit
  dsimp only
  rw [hentries, upd_upd]
  exact congrArg (fun p => { s with pool := p, commits := upd s.commits b CommitContext.settle }) hpool

/-! ### The three ends of a start (R87 to R89) -/

/-- The state after a start that absorbs its batch. -/
theorem absorb_formBatch (h : s.pool.batch[b] = Queue.empty) : absorb b e (formBatch b e s) = { s with
    pool := ({ s.pool.pendToBatch b with carry := upd s.pool.carry b fun _ => 0 } : DebitPool).batchToFree b
    registry := { s.registry with entries := upd s.registry.entries e fun n =>
      { n with saved := { n.saved with residue := commitVolume b e s } } }
    commits := upd s.commits b CommitContext.settle } := by
  rw [formBatch_of_empty h]
  unfold absorb State.modPool State.modEntry State.modCommit
  dsimp only
  rw [upd_self, upd_upd, upd_upd]
  rfl

theorem refuseCountSpent_formBatch (hp : s.pool.Partitioned) (h : s.pool.batch[b] = Queue.empty)
    (hcarry : s.pool.carry[b] ≤ 2 ^ 56 - 1) : refuseCountSpent b e (formBatch b e s) =
    post .countSpent (some b) [] (stickyFault b .countSpent (s.modCommit b CommitContext.settle)) := by
  rw [refuseCountSpent, returnBatch_formBatch hp h hcarry]

theorem stickyFault_of_settled {f : StickyFault} (h : s.ctx[b].state.settled = true) : (stickyFault b f s).ctx =
    upd s.ctx b fun c => { c with sticky := c.sticky.add f, state := .faulted } := by
  unfold stickyFault
  rw [modCtx_ctx]
  exact upd_congr (if_pos (by rw [h, Bool.true_or]))

theorem planWrite_formBatch (h : s.pool.batch[b] = Queue.empty) :
    planWrite b (formBatch b e s) =
      let level := pageLevel (s.ctx[b].level.getD [])
      let use := pageUse (s.ctx[b].level.getD [])
      let q := commitVolume b e s / 10 ^ 9
      let id := s.ctx[b].identity.getD []
      { s with
        pool := { s.pool.pendToBatch b with carry := upd s.pool.carry b fun _ => 0 }
        registry := { s.registry with entries := upd s.registry.entries e fun n =>
          { n with saved := { n.saved with residue := 0 } } }
        commits := upd s.commits b fun c => { c with
          state := .provingCode, batchCarry := s.pool.carry[b], batchResidue := s.registry.entries[e].saved.residue,
          total := commitVolume b e s, charged := q, newResidue := commitVolume b e s % 10 ^ 9, priorLevel := level,
          priorUse := use, newLevel := level - q, newUse := use + 1, excess := q - level }
        proof := s.proof.enqueue {
          bay := b, requester := .commit, cancelled := false
          inputs := .check (slotOf id) (pageSerial id) (level - q) (use + 1) s.profile.printerId } } := by
  rw [formBatch_of_empty h]
  unfold planWrite requestProof State.modCommit
  dsimp only
  rw [upd_self, upd_upd]
  rfl

end

/-- Settles O55: the three ends of a start, by the charged volume and the use count. -/
theorem commitStartAbsorbsRefusesOrPlans : Obligations.CommitStartAbsorbsRefusesOrPlans := by
  unfold Obligations.CommitStartAbsorbsRefusesOrPlans
  intro b e s hp hbatch _
  refine ⟨fun hq => ?_, fun hq huse hcarry => ?_, fun hq huse => ?_⟩
  · dsimp only
    rw [commitStart_of_absorbed hbatch hq, absorb_formBatch hbatch]
    dsimp only
    rw [upd_self, batchToFree_batch, upd_self]
    refine ⟨rfl, ?_, rfl, upd_self .., rfl, rfl, rfl, rfl, rfl⟩
    exact upd_self ..
  · dsimp only
    rw [commitStart_of_spent hbatch hq huse, refuseCountSpent_formBatch hp hbatch hcarry]
    refine ⟨?_, ?_, ?_, ?_, ?_, ?_, ?_, fun hsettled => ?_, post_notices_congr _ _ _ rfl rfl⟩
    · rw [post_registry]; rfl
    · rw [post_poolPend]; rfl
    · rw [post_poolBatch]; exact hbatch
    · rw [post_poolCarry]; rfl
    · rw [post_commits]; rfl
    · rw [post_lines]; rfl
    · rw [post_proof]; rfl
    · rw [post_ctx, stickyFault_of_settled (s := s.modCommit b _) hsettled]
      rfl
  · dsimp only
    rw [commitStart_of_planned hbatch hq huse, planWrite_formBatch hbatch]
    dsimp only
    rw [upd_self, upd_self, pendToBatch_of_empty hbatch]
    exact ⟨upd_self .., upd_self .., rfl, rfl, rfl, rfl, rfl, rfl, rfl⟩

end Sys2Proof.Machine
end

section
/-! SUPPORT. What posts, line arbitration, stamps and an escalation leave of the pool, the registry, the commits and the
bays; the level page of a commit; the three settlements of a commit's STORE (R90 to R97, R101). -/

namespace Sys2Proof.Machine

/-! ### What posts, line arbitration and stamps leave -/

/-- The registry, the queues and carries of the pool, the commits and the bay contexts. -/
structure Core where
  registry : Registry
  records : Vector DebitRecord 64
  free : Queue
  pend : Vector Queue 8
  batch : Vector Queue 8
  carry : Vector Nat 8
  commits : Vector CommitContext 8
  ctx : Vector BayContext 8

def State.core (s : State) : Core :=
  { registry := s.registry, records := s.pool.records, free := s.pool.free, pend := s.pool.pend, batch := s.pool.batch,
    carry := s.pool.carry, commits := s.commits, ctx := s.ctx }

section
variable {s t : State} (h : t.core = s.core)
include h
theorem registry_of_core : t.registry = s.registry := congrArg Core.registry h
theorem pend_of_core : t.pool.pend = s.pool.pend := congrArg Core.pend h
theorem batch_of_core : t.pool.batch = s.pool.batch := congrArg Core.batch h
theorem carry_of_core : t.pool.carry = s.pool.carry := congrArg Core.carry h
theorem commits_of_core : t.commits = s.commits := congrArg Core.commits h
theorem ctx_of_core : t.ctx = s.ctx := congrArg Core.ctx h

theorem partitioned_of_core (hp : s.pool.Partitioned) : t.pool.Partitioned :=
  partitioned_congr (congrArg Core.records h) (congrArg Core.free h) (congrArg Core.pend h) (congrArg Core.batch h) hp

end

theorem post_core (k : NoticeKind) (b : Option Bay) (d : List Byte) (s : State) : (post k b d s).core = s.core := by
  unfold State.core
  rw [post_registry, post_poolRecords, post_poolFree, post_poolPend, post_poolBatch, post_poolCarry, post_commits, post_ctx]

theorem modMark_core (b : Bay) (f : MarkWriter → MarkWriter) (s : State) : (s.modMark b f).core = s.core := rfl

theorem arbitrate_core (b : Bay) (s : State) : (arbitrate b s).core = s.core := by
  unfold arbitrate
  split <;> rfl

theorem claimArrives_core (b : Bay) (c : Claim) (s : State) : (claimArrives b c s).1.core = s.core := by
  unfold claimArrives
  split
  · rfl
  · split
    · exact arbitrate_core ..
    · exact post_core ..

theorem startStamps_core (b : Bay) : ∀ (l : List Verdict) (s : State), (startStamps b l s).core = s.core
  | [], _ => rfl
  | k :: ks, s => by
    unfold startStamps
    dsimp only
    split
    · rw [startStamps_core b ks, post_core]
    · next slot _ =>
      generalize hc : claimArrives b _ (s.modMark b _) = r
      have hr : r.1.core = s.core := by rw [← hc, claimArrives_core, modMark_core]
      obtain ⟨t, o⟩ := r
      split
      · next h => cases h; exact hr
      · next h => cases h; exact hr
      · next h =>
        cases h
        rw [startStamps_core b ks, post_core]
        exact hr

theorem requestStamp_core (b : Bay) (k : Verdict) (s : State) : (requestStamp b k s).core = s.core := by
  by_cases hignored : StampIgnored b k s
  · rw [requestStamp_of_ignored hignored]
  · rw [requestStamp_of_asked hignored]
    split
    · exact startStamps_core ..
    · rfl

/-! ### What an escalation leaves (R132) -/

/-- Nothing of the pool and the commits changes, and nothing of the bay and its entry but the verdict unit's own fields. -/
structure KeepsCharge (b : Bay) (e : EntryIx) (s t : State) : Prop where
  pend : t.pool.pend = s.pool.pend
  batch : t.pool.batch = s.pool.batch
  carry : t.pool.carry = s.pool.carry
  commits : t.commits = s.commits
  header : t.registry.header = s.registry.header
  level : t.ctx[b].level = s.ctx[b].level
  owner : t.ctx[b].owner = s.ctx[b].owner
  lastLevel : t.registry.entries[e].saved.lastLevel = s.registry.entries[e].saved.lastLevel
  lastUse : t.registry.entries[e].saved.lastUse = s.registry.entries[e].saved.lastUse
  residue : t.registry.entries[e].saved.residue = s.registry.entries[e].saved.residue
  overdraw : t.registry.entries[e].saved.overdraw = s.registry.entries[e].saved.overdraw
  debt : t.registry.entries[e].saved.debt = s.registry.entries[e].saved.debt
  doubt : t.registry.entries[e].saved.doubt = s.registry.entries[e].saved.doubt
  count : t.registry.entries[e].commits = s.registry.entries[e].commits
  dirty : s.registry.entries[e].dirty = true → t.registry.entries[e].dirty = true
  partitioned : s.pool.Partitioned → t.pool.Partitioned

section
variable {b : Bay} {e : EntryIx} {s t u : State}

theorem KeepsCharge.of_core (h : t.core = s.core) : KeepsCharge b e s t := by
  have hreg := registry_of_core h
  have hctx := ctx_of_core h
  constructor
  case pend => exact pend_of_core h
  case batch => exact batch_of_core h
  case carry => exact carry_of_core h
  case commits => exact commits_of_core h
  case partitioned => exact partitioned_of_core h
  all_goals simp [hreg, hctx]

theorem KeepsCharge.trans (h : KeepsCharge b e s t) (k : KeepsCharge b e t u) : KeepsCharge b e s u where
  pend := k.pend.trans h.pend
  batch := k.batch.trans h.batch
  carry := k.carry.trans h.carry
  commits := k.commits.trans h.commits
  header := k.header.trans h.header
  level := k.level.trans h.level
  owner := k.owner.trans h.owner
  lastLevel := k.lastLevel.trans h.lastLevel
  lastUse := k.lastUse.trans h.lastUse
  residue := k.residue.trans h.residue
  overdraw := k.overdraw.trans h.overdraw
  debt := k.debt.trans h.debt
  doubt := k.doubt.trans h.doubt
  count := k.count.trans h.count
  dirty := k.dirty ∘ h.dirty
  partitioned := k.partitioned ∘ h.partitioned

theorem changeAction_keeps_bay (a : Action) : (changeAction b a s).ctx[b].level = s.ctx[b].level ∧
    (changeAction b a s).ctx[b].owner = s.ctx[b].owner := by
  unfold changeAction
  rw [modCtx_at]
  split
  · exact ⟨rfl, rfl⟩
  · split <;> exact ⟨rfl, rfl⟩

theorem keepsCharge_escalated : KeepsCharge b e s (escalated b e s) := by
  by_cases hsame : strongerWorst s.profile.policy s.registry.entries[e].saved.worst .overdrawn =
      s.registry.entries[e].saved.worst ∧ escalates s.registry.entries[e].saved.held s.registry.entries[e].saved.allowance
        (s.profile.policy.action .overdrawn) (s.profile.policy.allowance .overdrawn) = false
  · have hnone : escalated b e s = s := if_pos hsame
    rw [hnone]
    exact .of_core rfl
  · rw [escalated_of_change hsame]
    refine KeepsCharge.trans ?_ (.of_core (post_core ..))
    have hbay := changeAction_keeps_bay (b := b) (s := s) (s.profile.policy.action .overdrawn)
    constructor
    case level =>
      dsimp only
      split
      · exact hbay.1
      · rfl
    case owner =>
      dsimp only
      split
      · exact hbay.2
      · rfl
    case dirty =>
      intro _
      dsimp only
      rw [upd_self]
    case partitioned => exact id
    all_goals simp

theorem keepsCharge_overdrawTest : KeepsCharge b e s (overdrawTest b e s) := by
  unfold overdrawTest
  split
  · rw [escalate_eq]
    split
    · exact keepsCharge_escalated.trans (.of_core (requestStamp_core ..))
    · exact keepsCharge_escalated
  · exact .of_core rfl

end

end Sys2Proof.Machine
end

section
/-! SUPPORT. The level page of a commit and what each outcome of its STORE leaves (R90 to R97, R101). -/

namespace Sys2Proof.Machine

/-! ### The level page (R90, R183) -/

section
variable {level use : Nat} {stamp : BitVec 32} {code : List Byte}

theorem levelPage_fields (hlevel : level < 2 ^ 24) (huse : use < 2 ^ 16) (hcode : code.length = 8) :
    let p := levelPage level use stamp code
    p.length = 32 ∧ pageLevel p = level ∧ pageUse p = use ∧ pageStamp p = stamp ∧ pageCheck p = code ∧
      p.drop 17 = List.replicate 15 0x00#8 := by
  have hslices : slice (levelPage level use stamp code) 0 3 = toLE 3 level ∧
      slice (levelPage level use stamp code) 3 2 = toLE 2 use ∧
      slice (levelPage level use stamp code) 5 4 = toLE 4 stamp.toNat ∧
      slice (levelPage level use stamp code) 9 8 = code := by
    simp [levelPage, slice, toLE, List.take_append, hcode]
  obtain ⟨h0, h3, h5, h9⟩ := hslices
  dsimp only
  refine ⟨?_, ?_, ?_, ?_, h9, ?_⟩
  · simp [levelPage, toLE_length, hcode]
  · rw [pageLevel, field, h0, leNat_toLE]
    exact Nat.mod_eq_of_lt hlevel
  · rw [pageUse, field, h3, leNat_toLE]
    exact Nat.mod_eq_of_lt huse
  · have hstamp : stamp.toNat % 256 ^ 4 = stamp.toNat := Nat.mod_eq_of_lt stamp.isLt
    rw [pageStamp, field, h5, leNat_toLE, hstamp, BitVec.ofNat_toNat, BitVec.setWidth_eq]
  · simp [levelPage, toLE, hcode]

end

/-! ### The settlement that an outcome takes (R92, R97, R101) -/

section
variable {b : Bay} {e : EntryIx} {s : State} {code : List Byte}

theorem commitOutcome_of_owner (h : s.ctx[b].owner = some e) :
    (∀ d : List Byte, commitOutcome b (.success d) s = commitSuccess b e s) ∧
      commitOutcome b .denied s = commitFailure b e .denied s ∧
      commitOutcome b .programFailed s = commitFailure b e .programFailed s ∧
      commitOutcome b .silent s = commitFailure b e .silent s ∧
      commitOutcome b .garbled s = commitFailure b e .garbled s ∧
      commitOutcome b .withdrawn s = commitWithdrawn b e s ∧
      ∀ sent : Bool, commitOutcome b (.abandoned sent) s = s := by
  unfold commitOutcome
  rw [h]
  exact ⟨fun _ => rfl, rfl, rfl, rfl, rfl, rfl, fun _ => rfl⟩

theorem checkCodeArrives_of_past (h : s.commits[b].state ≠ .provingCode) : checkCodeArrives b code s = s := by
  unfold checkCodeArrives
  dsimp only
  split
  · next hstate _ => exact absurd hstate h
  · rfl

theorem checkCodeArrives_of_draining (howner : s.ctx[b].owner = some e) (hstate : s.commits[b].state = .provingCode)
    (hpart : s.part ≠ .ready) : checkCodeArrives b code s = commitWithdrawn b e s := by
  unfold checkCodeArrives
  dsimp only
  rw [hstate, howner]
  exact if_neg hpart

/-- The claim of a commit's STORE. -/
def commitClaim (b : Bay) (code : List Byte) (s : State) : Claim :=
  { claimant := .commit, command := .store, page := 2, offset := 0, length := 32,
    data := levelPage s.commits[b].newLevel s.commits[b].newUse s.profile.printerId code }

/-- The commit that stores its page. -/
def storing (b : Bay) (code : List Byte) (s : State) : State :=
  s.modCommit b fun c => { c with pageData := some (commitClaim b code s).data, state := .storing }

theorem checkCodeArrives_of_claimed {t : State} (howner : s.ctx[b].owner = some e)
    (hstate : s.commits[b].state = .provingCode) (hpart : s.part = .ready)
    (hclaim : claimArrives b (commitClaim b code s) (storing b code s) = (t, none)) : checkCodeArrives b code s = t := by
  unfold storing commitClaim at hclaim
  unfold checkCodeArrives
  dsimp only
  rw [hstate, howner]
  dsimp only
  rw [if_pos hpart, hclaim]

theorem checkCodeArrives_of_refused {t : State} {o : LineOutcome} (howner : s.ctx[b].owner = some e)
    (hstate : s.commits[b].state = .provingCode) (hpart : s.part = .ready)
    (hclaim : claimArrives b (commitClaim b code s) (storing b code s) = (t, some o)) :
    checkCodeArrives b code s = commitOutcome b o t := by
  unfold storing commitClaim at hclaim
  unfold checkCodeArrives
  dsimp only
  rw [hstate, howner]
  dsimp only
  rw [if_pos hpart, hclaim]

end

/-! ### A success (R92 to R96) -/

section
variable {b : Bay} {e : EntryIx} {s : State}

theorem countCommit_eq (interval : Nat) (drain : Bool) (n : Entry) : countCommit interval drain n =
    { n with commits := if interval ≤ n.commits + 1 then 0 else n.commits + 1
             dirty := n.dirty || decide (interval ≤ n.commits + 1) || drain } := by
  unfold countCommit
  by_cases hfull : interval ≤ n.commits + 1
  · cases drain <;> simp [hfull]
  · cases drain <;> simp [hfull]

/-- The tag charged and the commit counted. -/
def chargedState (b : Bay) (e : EntryIx) (s : State) : State :=
  let c := s.commits[b]
  let full := s.profile.saveInterval ≤ s.registry.entries[e].commits + 1
  { s with
    ctx := upd s.ctx b fun y => { y with level := c.pageData }
    registry := { s.registry with entries := upd s.registry.entries e fun n => { n with
      saved := { n.saved with lastLevel := c.newLevel, lastUse := c.newUse, residue := c.newResidue,
                              overdraw := min 16777215 (n.saved.overdraw + c.excess) }
      commits := if full then 0 else n.commits + 1
      dirty := n.dirty || decide full || s.part == .drain } }
    pool := s.pool.batchToFree b
    commits := upd s.commits b fun c => { c with batchCarry := 0, batchResidue := 0 } }

theorem chargedState_eq : (chargeTag b e s).modEntry e (countCommit s.profile.saveInterval (s.part == .drain)) =
    chargedState b e s := by
  have hentries : upd (upd s.registry.entries e fun n => { n with saved := { n.saved with
        lastLevel := s.commits[b].newLevel, lastUse := s.commits[b].newUse, residue := s.commits[b].newResidue,
        overdraw := addOverdraw n.saved.overdraw s.commits[b].excess } }) e
      (countCommit s.profile.saveInterval (s.part == .drain)) = (chargedState b e s).registry.entries := by
    rw [upd_upd]
    unfold chargedState
    dsimp only
    refine upd_congr ?_
    rw [countCommit_eq]
    rfl
  exact congrArg (fun v => { chargedState b e s with registry := { s.registry with entries := v } }) hentries

/-- COMMIT_DONE's payload for the bay's commit. -/
def donePayload (b : Bay) (s : State) : List Byte :=
  commitDonePayload s.commits[b].newLevel s.commits[b].newUse s.pool.batch[b].count (batchSwaths s.pool b)

/-- The state that a success judges the next commit in. -/
def settledState (b : Bay) (e : EntryIx) (s : State) : State :=
  (post .commitDone (some b) (donePayload b s) (overdrawTest b e (levelNotices b (chargedState b e s)))).modCommit b
    CommitContext.settle

theorem commitSuccess_eq : commitSuccess b e s = judge b (settledState b e s) := by
  unfold commitSuccess
  dsimp only
  rw [chargedState_eq]
  rfl

/-- The level notices change nothing else but whether LEVEL_LOW has been posted. -/
theorem levelNotices_rest : OnlyNotices
    (s.modCommit b fun c => { c with lowPosted := c.lowPosted || decide (c.newLevel < lowMark s b) }) (levelNotices b s) := by
  by_cases hlow : s.commits[b].newLevel < lowMark s b ∧ s.commits[b].lowPosted = false
  · have hflag : (s.modCommit b fun c => { c with lowPosted := c.lowPosted || decide (c.newLevel < lowMark s b) }) =
        s.modCommit b fun c => { c with lowPosted := true } := by
      unfold State.modCommit
      refine congrArg (fun v => { s with commits := v }) (upd_congr ?_)
      rw [decide_eq_true hlow.1, Bool.or_true]
    rw [levelNotices_of_low hlow.1 hlow.2, hflag]
    dsimp only
    split
    · exact (onlyNotices_post ..).trans (onlyNotices_post ..)
    · exact onlyNotices_post ..
  · have hposted : lowMark s b ≤ s.commits[b].newLevel ∨ s.commits[b].lowPosted = true := by
      rw [not_and_or, Bool.not_eq_false, Nat.not_lt] at hlow
      exact hlow
    have hflag : (s.modCommit b fun c => { c with lowPosted := c.lowPosted || decide (c.newLevel < lowMark s b) }) = s := by
      have hkept : (s.commits[b].lowPosted || decide (s.commits[b].newLevel < lowMark s b)) = s.commits[b].lowPosted := by
        rw [Bool.or_eq_left_iff_imp, decide_eq_true_eq]
        exact fun h => hposted.resolve_left h.not_ge
      unfold State.modCommit
      refine (congrArg (fun v => { s with commits := v }) (upd_same ?_) : _ = { s with commits := s.commits })
      rw [hkept]
    rw [levelNotices_of_not_low hposted, hflag]
    split
    · exact onlyNotices_post ..
    · exact .refl s

theorem levelNotices_of_quiet (hlow : lowMark s b ≤ s.commits[b].newLevel) (hlevel : s.commits[b].newLevel ≠ 0) :
    levelNotices b s = s := by
  rw [levelNotices_of_not_low (.inl hlow)]
  exact if_neg fun h => hlevel h.1

/-! ### What a success leaves -/

/-- The tag charged, and LEVEL_LOW marked as posted where the level calls for it. -/
def notedState (b : Bay) (e : EntryIx) (s : State) : State :=
  { chargedState b e s with commits := upd s.commits b fun c =>
    { c with batchCarry := 0, batchResidue := 0, lowPosted := c.lowPosted || decide (c.newLevel < lowMark s b) } }

theorem lowMark_charged : lowMark (chargedState b e s) b = lowMark s b := by
  have hidentity : (chargedState b e s).ctx[b].identity = s.ctx[b].identity := by
    unfold chargedState
    dsimp only
    rw [upd_self]
  unfold lowMark
  rw [hidentity]
  rfl

theorem levelNotices_charged : OnlyNotices (notedState b e s) (levelNotices b (chargedState b e s)) := by
  have hcommits : ((chargedState b e s).modCommit b fun c =>
      { c with lowPosted := c.lowPosted || decide (c.newLevel < lowMark (chargedState b e s) b) }) = notedState b e s := by
    rw [lowMark_charged]
    unfold State.modCommit notedState chargedState
    dsimp only
    rw [upd_upd]
  rw [← hcommits]
  exact levelNotices_rest

theorem chargedState_within (h : s.commits[b].excess = 0 ∨
    min 16777215 (s.registry.entries[e].saved.overdraw + s.commits[b].excess) * 100 ≤
      pageCapacity (s.ctx[b].identity.getD []) * s.profile.margin) :
    overdrawTest b e (levelNotices b (chargedState b e s)) = levelNotices b (chargedState b e s) := by
  have hnotices := levelNotices_charged (b := b) (e := e) (s := s)
  refine overdrawTest_of_within ?_
  unfold State.profile
  rw [hnotices.commits, hnotices.registry, hnotices.ctx, hnotices.copies]
  unfold notedState chargedState
  dsimp only
  rw [upd_self, upd_self, upd_self]
  exact h

/-- What the bay, its entry and the pool keep of the charge through the notices and the overdraw test. -/
theorem keepsCharge_reported : KeepsCharge b e (notedState b e s) (post .commitDone (some b) (donePayload b s)
    (overdrawTest b e (levelNotices b (chargedState b e s)))) := by
  have hnotices := levelNotices_charged (b := b) (e := e) (s := s)
  have hcore : (levelNotices b (chargedState b e s)).core = (notedState b e s).core := by
    unfold State.core
    rw [hnotices.registry, hnotices.poolRecords, hnotices.poolFree, hnotices.poolPend, hnotices.poolBatch,
      hnotices.poolCarry, hnotices.commits, hnotices.ctx]
  exact ((KeepsCharge.of_core hcore).trans keepsCharge_overdrawTest).trans (.of_core (post_core ..))

theorem settledState_commit : (settledState b e s).commits[b] = { CommitContext.reset with
    flush := s.commits[b].flush
    lowPosted := s.commits[b].lowPosted || decide (s.commits[b].newLevel < lowMark s b) } := by
  have hcommit : (notedState b e s).commits[b] = _ := upd_self ..
  rw [settledState, modCommit_commits, upd_self, keepsCharge_reported.commits, hcommit]
  rfl

/-- A charge that leaves the level above the low mark and no excess posts COMMIT_DONE alone. -/
theorem settledState_notices (hexcess : s.commits[b].excess = 0) (hlow : lowMark s b ≤ s.commits[b].newLevel)
    (hlevel : s.commits[b].newLevel ≠ 0) :
    (settledState b e s).notices = (post .commitDone (some b) (donePayload b s) s).notices := by
  have hnew : (chargedState b e s).commits[b].newLevel = s.commits[b].newLevel := by
    unfold chargedState
    dsimp only
    rw [upd_self]
  have hquiet : levelNotices b (chargedState b e s) = chargedState b e s :=
    levelNotices_of_quiet (by rwa [lowMark_charged, hnew]) (by rwa [hnew])
  rw [settledState, chargedState_within (.inl hexcess), hquiet]
  exact post_notices_congr (s := chargedState b e s) _ _ _ rfl rfl

theorem settledState_profile : (settledState b e s).profile = s.profile := by
  have hkeeps := ((keeps_levelNotices (chargedState b e s) b).trans (keeps_overdrawTest _ b e)).trans
    (keeps_post _ .commitDone (some b) (donePayload b s) (by decide))
  exact congrArg (fun c : Option Profile => c.getD Profile.blank) hkeeps.copies

theorem settledState_owner (howner : s.ctx[b].owner = some e) : (settledState b e s).ctx[b].owner = some e := by
  rw [settledState, modCommit_ctx, keepsCharge_reported.owner]
  unfold notedState chargedState
  dsimp only
  rw [upd_self, howner]

/-- With nothing waiting and a residue below one unit no next commit is due. -/
theorem judge_settledState (howner : s.ctx[b].owner = some e) (hpend : s.pool.pend[b].total = 0)
    (hcarry : s.pool.carry[b] = 0) (hres : s.commits[b].newResidue < 10 ^ 9) (hstep : 1 ≤ s.profile.bays[b].commitStep) :
    judge b (settledState b e s) = settledState b e s := by
  have hkeeps := keepsCharge_reported (b := b) (e := e) (s := s)
  have hown := settledState_owner howner
  have hwaits : (settledState b e s).waitingVolume b = 0 := by
    have hp : (settledState b e s).pool.pend = s.pool.pend := hkeeps.pend
    have hc : (settledState b e s).pool.carry = s.pool.carry := hkeeps.carry
    rw [State.waitingVolume, hp, hc, hpend, hcarry]
  have hresidue : (settledState b e s).registry.entries[e].saved.residue = s.commits[b].newResidue := by
    refine hkeeps.residue.trans ?_
    unfold notedState chargedState
    dsimp only
    rw [upd_self]
  refine judge_of_not_due (commitDue_eq_none_of_ne hown ?_)
  rw [Ne, commitDue_eq_some_iff hown, stepDue_iff, flushDue_iff, hwaits, hresidue, settledState_profile]
  rintro ⟨-, hdue | ⟨-, -, hdue⟩⟩
  · have := Nat.mul_le_mul_right (10 ^ 9) hstep
    omega
  · exact hdue.false

end

end Sys2Proof.Machine
end

section
/-! SUPPORT. What a failed and a withdrawn commit return, and the settlements of a commit's STORE (R90 to R97, R101). -/

namespace Sys2Proof.Machine

section
variable {b : Bay} {e : EntryIx} {s u : State}

/-- What a state holds of the batch after its return, for a state with the commits, the pool's queues and carries and the
registry of the return. -/
theorem returned_of_returnBatch (hcommits : u.commits = (returnBatch b e s).commits)
    (hpend : u.pool.pend = (returnBatch b e s).pool.pend) (hbatch : u.pool.batch = (returnBatch b e s).pool.batch)
    (hcarry : u.pool.carry = (returnBatch b e s).pool.carry)
    (hentries : u.registry.entries = (returnBatch b e s).registry.entries) :
    let c := s.commits[b]
    u.commits[b] = { CommitContext.reset with flush := c.flush, lowPosted := u.commits[b].lowPosted } ∧
      u.commits[b].lowPosted = c.lowPosted ∧ u.pool.batch[b] = Queue.empty ∧
      u.registry.entries[e] = { s.registry.entries[e] with
        saved := { s.registry.entries[e].saved with
          residue := s.registry.entries[e].saved.residue + c.batchResidue } } ∧
      (s.pool.Partitioned →
        u.pool.pend[b].total = s.pool.pend[b].total + s.pool.batch[b].total ∧
        u.pool.pend[b].count = s.pool.pend[b].count + s.pool.batch[b].count) ∧
      (s.pool.carry[b] + c.batchCarry ≤ 2 ^ 56 - 1 → u.pool.carry[b] = s.pool.carry[b] + c.batchCarry) := by
  obtain ⟨-, -, -, -, -, hsettle, hjoined, hemptied, hadded, hresidue⟩ := returnBatch_rest b e s
  dsimp only
  rw [hcommits, hpend, hbatch, hcarry, hentries, hsettle, hjoined, hemptied, hadded, hresidue, upd_self, upd_self, upd_self,
    batchToPend_batch, upd_self]
  exact ⟨rfl, rfl, rfl, rfl, batchToPend_sums, Nat.min_eq_left⟩

theorem returnBatch_notices (h : s.pool.carry[b] + s.commits[b].batchCarry ≤ 2 ^ 56 - 1) :
    (returnBatch b e s).notices = s.notices ∧ (returnBatch b e s).pool.starved = s.pool.starved := by
  rw [returnBatch_of_le e h]
  exact ⟨rfl, rfl⟩

theorem refold_of_part (h : u.part = s.part) : refold b u = if s.part = .drain then fold b u else u := by
  rw [refold, h]

theorem stickyFault_commits (f : StickyFault) (t : State) : (stickyFault b f t).commits = t.commits := rfl
theorem stickyFault_pool (f : StickyFault) (t : State) : (stickyFault b f t).pool = t.pool := rfl
theorem stickyFault_registry (f : StickyFault) (t : State) : (stickyFault b f t).registry = t.registry := rfl
theorem stickyFault_notices (f : StickyFault) (t : State) : (stickyFault b f t).notices = t.notices := rfl

/-- A sticky fault on a settled or FAULTED bay (R36). -/
theorem stickyFault_of_bay {f : StickyFault} (h : s.ctx[b].state.settled = true ∨ s.ctx[b].state = .faulted) :
    (stickyFault b f s).ctx = upd s.ctx b fun c => { c with sticky := c.sticky.add f, state := .faulted } := by
  unfold stickyFault
  rw [modCtx_ctx]
  exact upd_congr (if_pos (by rwa [Bool.or_eq_true, beq_iff_eq]))

end

/-- Settles O56: the page, the outcomes, the check code, and the three settlements. -/
theorem commitWritesItsPageAndSettles : Obligations.CommitWritesItsPageAndSettles := by
  unfold Obligations.CommitWritesItsPageAndSettles
  refine ⟨fun level use stamp code => levelPage_fields, fun b e s howner => ?_⟩
  refine ⟨commitOutcome_of_owner howner, fun code => ⟨checkCodeArrives_of_past, checkCodeArrives_of_draining howner,
    fun hstate hpart hbay hpass => ?_, fun hstate hpart hbay hfail => ?_⟩, ⟨commitSuccess_eq, ?pool, ?within, ?kept, ?quiet⟩,
    fun r => ?failure, ?withdrawn⟩
  case refine_1 =>
    exact checkCodeArrives_of_claimed howner hstate hpart (claimArrives_of_passes (s := storing b code s) hbay hpass)
  case refine_2 =>
    rw [checkCodeArrives_of_refused howner hstate hpart (claimArrives_of_fails (s := storing b code s) hbay hfail)]
    have hown : (postTagFault b .commit .screened (storing b code s)).ctx[b].owner = some e := by
      rw [postTagFault, post_ctx]
      exact howner
    exact (commitOutcome_of_owner hown).2.1
  case pool =>
    exact ⟨upd_self .., fun d hd => upd_ne _ _ _ _ hd, rfl, rfl, rfl, batchToFree_count⟩
  case within =>
    intro hwithin
    have hnotices := levelNotices_charged (b := b) (e := e) (s := s)
    have hu : settledState b e s = (post .commitDone (some b) (donePayload b s)
        (levelNotices b (chargedState b e s))).modCommit b CommitContext.settle := by
      rw [settledState, chargedState_within hwithin]
    have hfields := onlyNotices_post .commitDone (some b) (donePayload b s) (levelNotices b (chargedState b e s))
    have hall := hnotices.trans hfields
    refine ⟨?_, ?_, ?_, ?_, ?_, ?_, ?_, ?_, ?_, ?_⟩
    · exact (congrArg State.registry hu).trans hall.registry
    · exact (congrArg State.ctx hu).trans hall.ctx
    · exact (congrArg State.lines hu).trans hall.lines
    · exact (congrArg State.marks hu).trans hall.marks
    · exact (congrArg State.proof hu).trans hall.proof
    · exact (congrArg State.link hu).trans hall.link
    · exact (congrArg State.tracker hu).trans hall.tracker
    · exact (congrArg State.meter hu).trans hall.meter
    · exact (congrArg State.part hu).trans hall.part
    · refine (congrArg State.commits hu).trans ?_
      rw [modCommit_commits, hall.commits]
      exact upd_upd ..
  case kept =>
    have hkept := keepsCharge_reported (b := b) (e := e) (s := s)
    have hentry : (notedState b e s).registry.entries[e] = _ := upd_self ..
    have hlevel : (notedState b e s).ctx[b] = { s.ctx[b] with level := s.commits[b].pageData } := upd_self ..
    have hidle : (settledState b e s).commits[b] = { CommitContext.reset with
        flush := s.commits[b].flush, lowPosted := (settledState b e s).commits[b].lowPosted } := by
      rw [settledState_commit]
    refine ⟨hidle, ?_, ?_, hkept.pend, hkept.carry, ?_, ?_, ?_, ?_, ?_, ?_, ?_, settledState_notices⟩
    · exact hkept.level.trans (congrArg BayContext.level hlevel)
    · exact (congrArg (fun v => v[b]) hkept.batch).trans (upd_self ..)
    · exact hkept.lastLevel.trans (congrArg (fun n : Entry => n.saved.lastLevel) hentry)
    · exact hkept.lastUse.trans (congrArg (fun n : Entry => n.saved.lastUse) hentry)
    · exact hkept.residue.trans (congrArg (fun n : Entry => n.saved.residue) hentry)
    · exact hkept.overdraw.trans (congrArg (fun n : Entry => n.saved.overdraw) hentry)
    · exact hkept.debt.trans (by rw [hentry])
    · exact hkept.count.trans (congrArg Entry.commits hentry)
    · intro hdirty
      refine hkept.dirty ((congrArg Entry.dirty hentry).trans ?_)
      dsimp only
      obtain hfull | hdrain := hdirty
      · rw [decide_eq_true hfull, Bool.or_true, Bool.true_or]
      · rw [hdrain]
        exact Bool.or_true _
  case quiet => exact fun hpend hcarry hres hstep => commitSuccess_eq.trans (judge_settledState howner hpend hcarry hres hstep)
  case failure =>
    refine ⟨post .commitError (some b) (toLE 1 r.code) (stickyFault b .commitError (returnBatch b e s)), ?_, ?_, ?_, ?_⟩
    · refine refold_of_part ?_
      rw [post_part]
      exact ((keeps_returnBatch s b e).trans (keeps_stickyFault _ b .commitError)).part
    · refine returned_of_returnBatch ?_ ?_ ?_ ?_ ?_
      · exact (post_commits ..).trans (stickyFault_commits ..)
      · exact (post_poolPend ..).trans (congrArg DebitPool.pend (stickyFault_pool ..))
      · exact (post_poolBatch ..).trans (congrArg DebitPool.batch (stickyFault_pool ..))
      · exact (post_poolCarry ..).trans (congrArg DebitPool.carry (stickyFault_pool ..))
      · exact congrArg Registry.entries ((post_registry ..).trans (stickyFault_registry ..))
    · intro hsum
      obtain ⟨hnotices, hstarved⟩ := returnBatch_notices (e := e) hsum
      refine post_notices_congr _ _ _ ?_ ?_
      · exact (stickyFault_notices .commitError (returnBatch b e s)).trans hnotices
      · exact (congrArg DebitPool.starved (stickyFault_pool .commitError (returnBatch b e s))).trans hstarved
    · intro hbay
      have hctx := returnBatch_ctx b e s
      rw [post_ctx, stickyFault_of_bay (by rwa [hctx]), hctx]
      rfl
  case withdrawn =>
    refine ⟨returnBatch b e s, refold_of_part (keeps_returnBatch s b e).part, returned_of_returnBatch rfl rfl rfl rfl rfl,
      returnBatch_ctx b e s, (returnBatch_rest b e s).2.1, fun hsum => (returnBatch_notices hsum).1⟩

end Sys2Proof.Machine
end

section
/-! SUPPORT. The metered volume of a bay and its owner through the acts of the pool and of the commit engine (R71). -/

namespace Sys2Proof.Machine

/-! ### Additions to debt and to carry (R70, R105, R112) -/

section
variable {b : Bay} {e : EntryIx} {s t : State}

theorem writeOff_writtenOff {v : Nat} {who : Option Bay} (h : s.registry.header.writtenOff + v ≤ 2 ^ 64 - 1) :
    (writeOff v who s).registry.header.writtenOff = s.registry.header.writtenOff + v := by
  unfold writeOff
  split
  · next hzero => rw [hzero, Nat.add_zero]
  · dsimp only
    unfold postWrittenOff
    rw [post_registry]
    exact Nat.min_eq_right h

/-- What an addition to debt does not leave in the debt it writes off. -/
theorem addDebt_volume {v : Nat} {who : Option Bay}
    (h : s.registry.header.writtenOff + (s.registry.entries[e].saved.debt + v) ≤ 2 ^ 64 - 1) :
    (addDebt e v who s).registry.entries[e].saved.debt + (addDebt e v who s).registry.header.writtenOff =
      s.registry.entries[e].saved.debt + v + s.registry.header.writtenOff := by
  obtain ⟨-, -, -, -, -, -, -, -, -, hentries⟩ := addDebt_rest e v who s
  rw [hentries, upd_self, addDebt_eq]
  generalize Config.volumeMax = m
  rw [writeOff_writtenOff (s := s.modEntry e _) (by rw [modEntry_registry]; dsimp only; omega), modEntry_registry]
  dsimp only
  omega

/-- What an addition to carry does not leave in the carry it writes off. -/
theorem addCarry_volume {v : Nat} (h : s.registry.header.writtenOff + (s.pool.carry[b] + v) ≤ 2 ^ 64 - 1) :
    (addCarry b v s).pool.carry[b] + (addCarry b v s).registry.header.writtenOff =
      s.pool.carry[b] + v + s.registry.header.writtenOff := by
  obtain ⟨-, -, -, -, -, -, -, -, hcarry, -⟩ := addCarry_rest b v s
  rw [hcarry, upd_self, addCarry_eq]
  generalize Config.volumeMax = m
  rw [writeOff_writtenOff (s := s.modPool _) (by rw [modPool_registry]; omega), modPool_registry]
  omega

/-! ### The acts of the pool and of a commit (R71) -/

theorem doubtTotal_congr {v w : Saved} (h : v.doubt = w.doubt) : v.doubtTotal = w.doubtTotal := by
  unfold Saved.doubtTotal
  rw [h]

theorem account_of_core (h : t.core = s.core) : t.account b e = s.account b e := by
  unfold State.account
  rw [registry_of_core h, pend_of_core h, batch_of_core h, carry_of_core h, commits_of_core h]

theorem account_addDebt {v : Nat} {who : Option Bay}
    (h : s.registry.header.writtenOff + (s.registry.entries[e].saved.debt + v) ≤ 2 ^ 64 - 1) :
    (addDebt e v who s).account b e = s.account b e + v := by
  obtain ⟨-, -, hcommits, -, -, -, hpend, hbatch, hcarry, hentries⟩ := addDebt_rest e v who s
  have hsum := addDebt_volume (who := who) h
  have hresidue : (addDebt e v who s).registry.entries[e].saved.residue = s.registry.entries[e].saved.residue := by
    rw [hentries, upd_self]
  have hdoubt : (addDebt e v who s).registry.entries[e].saved.doubtTotal = s.registry.entries[e].saved.doubtTotal :=
    doubtTotal_congr (by rw [hentries, upd_self])
  unfold State.account
  rw [hcommits, hpend, hbatch, hcarry, hresidue, hdoubt]
  omega

theorem account_addCarry {v : Nat} (h : s.registry.header.writtenOff + (s.pool.carry[b] + v) ≤ 2 ^ 64 - 1) :
    (addCarry b v s).account b e = s.account b e + v := by
  obtain ⟨-, -, hcommits, -, -, -, hpend, hbatch, -, hentries⟩ := addCarry_rest b v s
  have hsum := addCarry_volume h
  unfold State.account
  rw [hcommits, hpend, hbatch, hentries]
  omega

/-! ### Folds and returns -/

/-- The volume of PENDING and of the carry gone. -/
theorem account_pendToFree : (t.modPool fun p =>
    { p.pendToFree b with carry := upd (p.pendToFree b).carry b fun _ => 0 }).account b e +
    (t.pool.pend[b].total + t.pool.carry[b]) = t.account b e := by
  have hempty : (t.pool.pendToFree b).pend[b].total = 0 := by
    rw [pendToFree_pend, upd_self]
    rfl
  have hbatch : (t.pool.pendToFree b).batch = t.pool.batch := rfl
  unfold State.account
  rw [modPool_pool, modPool_commits, modPool_registry]
  dsimp only
  rw [hempty, hbatch, upd_self]
  omega

theorem fold_of_owner (howner : s.ctx[b].owner = some e) : fold b s =
    (addDebt e (s.pool.pend[b].total + s.pool.carry[b]) (some b) s).modPool fun p =>
      { p.pendToFree b with carry := upd (p.pendToFree b).carry b fun _ => 0 } := by
  unfold fold State.foldVolume
  rw [howner]

theorem account_fold (howner : s.ctx[b].owner = some e) (h : s.account b e ≤ 2 ^ 64 - 1) :
    (fold b s).account b e = s.account b e := by
  obtain ⟨-, -, -, -, -, -, hpend, -, hcarry, -⟩ :=
    addDebt_rest e (s.pool.pend[b].total + s.pool.carry[b]) (some b) s
  have hdebt := account_addDebt (b := b) (e := e) (s := s) (v := s.pool.pend[b].total + s.pool.carry[b]) (who := some b)
    (by unfold State.account at h; omega)
  have hgone := account_pendToFree (b := b) (e := e)
    (t := addDebt e (s.pool.pend[b].total + s.pool.carry[b]) (some b) s)
  rw [hpend, hcarry, hdebt] at hgone
  rw [fold_of_owner howner]
  exact Nat.add_right_cancel hgone

theorem account_batchToPend (hp : t.pool.Partitioned) :
    (t.modPool fun p => p.batchToPend b).account b e = t.account b e := by
  have hempty : (t.pool.batchToPend b).batch[b].total = 0 := by
    rw [batchToPend_batch, upd_self]
    rfl
  have hcarry : (t.pool.batchToPend b).carry = t.pool.carry := rfl
  unfold State.account
  rw [modPool_pool, modPool_commits, modPool_registry, hempty, hcarry, (batchToPend_sums hp).1]
  omega

/-- The batch's carry and residue cleared, and a residue added to the owner. -/
theorem account_settle {r : Nat} : ((t.modEntry e fun n =>
    { n with saved := { n.saved with residue := n.saved.residue + r } }).modCommit b CommitContext.settle).account b e +
    (t.commits[b].batchCarry + t.commits[b].batchResidue) = t.account b e + r := by
  have hcleared : (CommitContext.settle t.commits[b]).batchCarry = 0 ∧ (CommitContext.settle t.commits[b]).batchResidue = 0 :=
    ⟨rfl, rfl⟩
  have hdoubt : Saved.doubtTotal { t.registry.entries[e].saved with residue := t.registry.entries[e].saved.residue + r } =
      t.registry.entries[e].saved.doubtTotal := doubtTotal_congr rfl
  unfold State.account
  rw [modCommit_pool, modCommit_commits, modCommit_registry, modEntry_pool, modEntry_commits, modEntry_registry]
  dsimp only
  rw [upd_self, upd_self, hcleared.1, hcleared.2, hdoubt]
  dsimp only
  omega

/-- A return puts the batch back where it came from. -/
theorem account_returnBatch (hp : s.pool.Partitioned) (h : s.account b e ≤ 2 ^ 64 - 1) :
    (returnBatch b e s).account b e = s.account b e := by
  have hcarry : (s.modPool fun p => p.batchToPend b).pool.carry[b] = s.pool.carry[b] := rfl
  have hheader : (s.modPool fun p => p.batchToPend b).registry.header = s.registry.header := rfl
  have hadd := account_addCarry (b := b) (e := e) (s := s.modPool fun p => p.batchToPend b) (v := s.commits[b].batchCarry)
    (by rw [hcarry, hheader]; unfold State.account at h; omega)
  obtain ⟨-, -, hcommits, -⟩ := addCarry_rest b s.commits[b].batchCarry (s.modPool fun p => p.batchToPend b)
  have hsettle := account_settle (b := b) (e := e) (r := s.commits[b].batchResidue)
    (t := addCarry b s.commits[b].batchCarry (s.modPool fun p => p.batchToPend b))
  rw [hcommits, modPool_commits, hadd, account_batchToPend hp] at hsettle
  rw [Nat.add_assoc] at hsettle
  exact Nat.add_right_cancel hsettle

/-! ### The settlements of a commit -/

theorem account_refold (hown : s.ctx[b].owner = some e) (h : s.account b e ≤ 2 ^ 64 - 1) :
    (refold b s).account b e = s.account b e := by
  unfold refold
  split
  · exact account_fold hown h
  · rfl

theorem stickyFault_owner (f : StickyFault) (t : State) : (stickyFault b f t).ctx[b].owner = t.ctx[b].owner := by
  unfold stickyFault
  rw [modCtx_at]
  split <;> rfl

theorem account_modCtx {f : BayContext → BayContext} : (t.modCtx b f).account b e = t.account b e := rfl

theorem account_commitFailure {r : FaultReason} (hp : s.pool.Partitioned) (howner : s.ctx[b].owner = some e)
    (h : s.account b e ≤ 2 ^ 64 - 1) : (commitFailure b e r s).account b e = s.account b e := by
  have hsame : (post .commitError (some b) (toLE 1 r.code) (stickyFault b .commitError (returnBatch b e s))).account b e =
      s.account b e := by
    rw [account_of_core (post_core ..), stickyFault, account_modCtx, account_returnBatch hp h]
  have hown : (post .commitError (some b) (toLE 1 r.code)
      (stickyFault b .commitError (returnBatch b e s))).ctx[b].owner = some e := by
    rw [post_ctx, stickyFault_owner, returnBatch_ctx, howner]
  unfold commitFailure
  rw [account_refold hown (by rwa [hsame]), hsame]

theorem account_commitWithdrawn (hp : s.pool.Partitioned) (howner : s.ctx[b].owner = some e)
    (h : s.account b e ≤ 2 ^ 64 - 1) : (commitWithdrawn b e s).account b e = s.account b e := by
  have hsame := account_returnBatch hp h
  unfold commitWithdrawn
  rw [account_refold (by rw [returnBatch_ctx, howner]) (by rwa [hsame]), hsame]

/-- A doubt record of T in place of the batch that makes T up. -/
theorem account_abandonInDoubt (hformed : s.CommitFormed b e) (hnone : s.registry.entries[e].saved.doubt = none) :
    (abandonInDoubt b e s).account b e = s.account b e := by
  have htotal := hformed.total
  have hbefore : s.registry.entries[e].saved.doubtTotal = 0 := by
    unfold Saved.doubtTotal
    rw [hnone]
  have hempty : (s.pool.batchToFree b).batch[b].total = 0 := by
    rw [batchToFree_batch, upd_self]
    rfl
  have hpend : (s.pool.batchToFree b).pend = s.pool.pend := rfl
  have hcarry : (s.pool.batchToFree b).carry = s.pool.carry := rfl
  have hcleared : (CommitContext.settle s.commits[b]).batchCarry = 0 ∧ (CommitContext.settle s.commits[b]).batchResidue = 0 :=
    ⟨rfl, rfl⟩
  unfold State.account abandonInDoubt
  dsimp only
  rw [modCommit_pool, modCommit_commits, modCommit_registry, modPool_pool, modPool_commits, modPool_registry, modEntry_pool,
    modEntry_commits, modEntry_registry, hempty, hpend, hcarry, hbefore]
  dsimp only
  rw [upd_self, upd_self, hcleared.1, hcleared.2]
  dsimp only [Saved.doubtTotal]
  omega

/-! ### A commit start -/

theorem account_formBatch (hbatch : s.pool.batch[b] = Queue.empty) (hcarry : s.commits[b].batchCarry = 0)
    (hresidue : s.commits[b].batchResidue = 0) : (formBatch b e s).account b e = s.account b e := by
  have hdoubt : Saved.doubtTotal { s.registry.entries[e].saved with residue := 0 } =
      s.registry.entries[e].saved.doubtTotal := doubtTotal_congr rfl
  have hnothing : Queue.empty.total = 0 := rfl
  rw [formBatch_of_empty hbatch]
  unfold State.account
  dsimp only
  rw [pendToBatch_of_empty hbatch]
  dsimp only
  rw [upd_self, upd_self, upd_self, upd_self, upd_self, hdoubt, hbatch, hcarry, hresidue]
  dsimp only
  rw [hnothing]
  omega

theorem account_absorb (hbatch : s.pool.batch[b] = Queue.empty) (hcarry : s.commits[b].batchCarry = 0)
    (hresidue : s.commits[b].batchResidue = 0) : (absorb b e (formBatch b e s)).account b e = s.account b e := by
  have hdoubt : Saved.doubtTotal { s.registry.entries[e].saved with residue := commitVolume b e s } =
      s.registry.entries[e].saved.doubtTotal := doubtTotal_congr rfl
  have hnothing : Queue.empty.total = 0 := rfl
  have hpend : (({ s.pool.pendToBatch b with carry := upd s.pool.carry b fun _ => 0 } : DebitPool).batchToFree b).pend =
      (s.pool.pendToBatch b).pend := rfl
  have hcar : (({ s.pool.pendToBatch b with carry := upd s.pool.carry b fun _ => 0 } : DebitPool).batchToFree b).carry =
      upd s.pool.carry b fun _ => 0 := rfl
  have hcleared : (CommitContext.settle s.commits[b]).batchCarry = 0 ∧ (CommitContext.settle s.commits[b]).batchResidue = 0 :=
    ⟨rfl, rfl⟩
  rw [absorb_formBatch hbatch]
  unfold State.account
  dsimp only
  rw [batchToFree_batch, hpend, hcar, pendToBatch_of_empty hbatch]
  dsimp only
  rw [upd_self, upd_self, upd_self, upd_self, upd_self, hdoubt, hbatch, hcarry, hresidue, hcleared.1, hcleared.2]
  dsimp only
  rw [hnothing, commitVolume]
  omega

theorem planWrite_account : (planWrite b t).account b e = t.account b e := by
  unfold State.account planWrite requestProof
  dsimp only
  rw [modCommit_pool, modCommit_commits, modCommit_registry, upd_self]

theorem account_commitStart (hp : s.pool.Partitioned) (h : s.account b e ≤ 2 ^ 64 - 1)
    (hbatch : s.pool.batch[b] = Queue.empty) (hcarry : s.commits[b].batchCarry = 0)
    (hresidue : s.commits[b].batchResidue = 0) : (commitStart b e s).account b e = s.account b e := by
  have hform := account_formBatch (e := e) hbatch hcarry hresidue
  unfold commitStart
  dsimp only
  split
  · exact account_absorb hbatch hcarry hresidue
  · split
    · have hparts : (formBatch b e s).pool.Partitioned := (keeps_formBatch s b e).pool hp
      unfold refuseCountSpent
      rw [account_of_core (post_core ..), stickyFault, account_modCtx, account_returnBatch hparts (by rwa [hform]), hform]
    · rw [planWrite_account, hform]

/-! ### A success -/

/-- A charge takes q × 10^9 fl out. -/
theorem account_settledState (hformed : s.CommitFormed b e) :
    (settledState b e s).account b e + s.commits[b].charged * 1000000000 = s.account b e := by
  obtain ⟨htotal, hcharged, hresidue, hentry⟩ := hformed
  have hkept := keepsCharge_reported (b := b) (e := e) (s := s)
  have hpend : (settledState b e s).pool.pend = s.pool.pend := hkept.pend
  have hcarry : (settledState b e s).pool.carry = s.pool.carry := hkept.carry
  have hbatch : (settledState b e s).pool.batch = upd s.pool.batch b fun _ => Queue.empty := hkept.batch
  have hheader : (settledState b e s).registry.header = s.registry.header := hkept.header
  have hnoted : (notedState b e s).registry.entries[e] = _ := upd_self ..
  have hres : (settledState b e s).registry.entries[e].saved.residue = s.commits[b].newResidue :=
    hkept.residue.trans (by rw [hnoted])
  have hdebt : (settledState b e s).registry.entries[e].saved.debt = s.registry.entries[e].saved.debt :=
    hkept.debt.trans (by rw [hnoted])
  have hdoubt : (settledState b e s).registry.entries[e].saved.doubtTotal = s.registry.entries[e].saved.doubtTotal :=
    doubtTotal_congr (hkept.doubt.trans (by rw [hnoted]))
  have hnothing : Queue.empty.total = 0 := rfl
  have hcleared : CommitContext.reset.batchCarry = 0 ∧ CommitContext.reset.batchResidue = 0 := ⟨rfl, rfl⟩
  unfold State.account
  rw [hpend, hcarry, hbatch, hheader, hres, hdebt, hdoubt, settledState_commit, upd_self, hnothing, hentry]
  dsimp only
  rw [hcleared.1, hcleared.2]
  omega

theorem account_commitSuccess (hp : s.pool.Partitioned) (howner : s.ctx[b].owner = some e) (h : s.account b e ≤ 2 ^ 64 - 1)
    (hformed : s.CommitFormed b e) :
    (commitSuccess b e s).account b e + s.commits[b].charged * 1000000000 = s.account b e := by
  have hkept := keepsCharge_reported (b := b) (e := e) (s := s)
  have hcharged := account_settledState hformed
  rw [commitSuccess_eq]
  by_cases hdue : commitDue (settledState b e s) b = some e
  · have hparts : (settledState b e s).pool.Partitioned := hkept.partitioned (partitioned_batchToFree b _ hp)
    have hbatch : (settledState b e s).pool.batch[b] = Queue.empty :=
      (congrArg (fun v => v[b]) hkept.batch).trans (upd_self ..)
    rw [judge_of_due hdue, account_commitStart hparts (by omega) hbatch (by rw [settledState_commit]; rfl)
      (by rw [settledState_commit]; rfl), hcharged]
  · rw [judge_of_not_due (commitDue_eq_none_of_ne (settledState_owner howner) hdue), hcharged]

/-! ### A tally -/

theorem placeInPending_commits (w : BitVec 16) (v : Nat) : (placeInPending b w v s).commits = s.commits := by
  unfold placeInPending
  split
  · rfl
  · unfold starve
    rw [post_commits, modPool_commits]
    exact (addCarry_rest b v s).2.2.1

theorem account_placeInPending {w : BitVec 16} {v : Nat} (hp : s.pool.Partitioned)
    (h : s.account b e + v ≤ 2 ^ 64 - 1) : (placeInPending b w v s).account b e = s.account b e + v := by
  cases hhead : s.pool.free.head with
  | none =>
    have hstarved (f : Vector Nat 8 → Vector Nat 8) (u : State) :
        (u.modPool fun p => { p with starved := f p.starved }).account b e = u.account b e := rfl
    rw [placeInPending_of_none hhead, starve, account_of_core (post_core ..)]
    refine (hstarved (fun x => upd x b fun n => min Config.countMax (n + 1)) _).trans (account_addCarry ?_)
    unfold State.account at h
    omega
  | some r =>
    obtain ⟨-, -, -, hpend, hbatch, hcarry, -, hreg, -⟩ := placeInPending_of_head (b := b) (swath := w) (v := v) hp hhead
    unfold State.account
    rw [hpend, hbatch, hcarry, hreg, placeInPending_commits, upd_self]
    dsimp only
    omega

theorem account_placeTally {w : BitVec 16} {v : Nat} (hp : s.pool.Partitioned) (howner : s.ctx[b].owner = some e)
    (h : s.account b e + v ≤ 2 ^ 64 - 1) : (placeTally b e w v s).account b e = s.account b e + v := by
  by_cases hdrain : s.part = .drain
  · rw [placeTally_of_drain hdrain]
    exact account_addDebt (by unfold State.account at h; omega)
  · rw [placeTally_of_owner hdrain howner, account_placeInPending hp h]

end

/-- Settles O27: each act by the lemma about its account. -/
theorem meteredVolumeIsNeitherLostNorMade : Obligations.MeteredVolumeIsNeitherLostNorMade := by
  unfold Obligations.MeteredVolumeIsNeitherLostNorMade
  intro b e s hp howner h
  exact ⟨account_fold howner h, account_commitStart hp h, fun _ => account_commitFailure hp howner h,
    account_commitWithdrawn hp howner h, account_abandonInDoubt, account_commitSuccess hp howner h,
    fun _ _ => account_placeTally hp howner⟩

end Sys2Proof.Machine
end

section
/-! SUPPORT. The completion of checking: the doubt resolved, the verdicts combined, the entry bound, the stamps asked for
(R33, R111, R123 to R129). -/

namespace Sys2Proof.Machine

/-! ### The doubt's resolution (R123) -/

section
variable {b : Bay} {e : EntryIx} {level use : Nat} {s : State}

theorem addDebt_sequence (v : Nat) (who : Option Bay) :
    (addDebt e v who s).registry.header.sequence = s.registry.header.sequence := by
  obtain ⟨-, -, -, -, -, -, -, -, -, -, hsequence, -⟩ := writeOff_rest
    (s.registry.entries[e].saved.debt + v - Config.volumeMax) who
    (s.modEntry e fun n => { n with
      saved := { n.saved with debt := min (n.saved.debt + v) Config.volumeMax }, dirty := true })
  rw [addDebt_eq, hsequence, modEntry_registry]

/-- What a resolution leaves: the bays, the carries, the sequence and what names the cartridge; no doubt is left. -/
structure Resolved (e : EntryIx) (s t : State) : Prop where
  ctx : t.ctx = s.ctx
  carry : t.pool.carry = s.pool.carry
  sequence : t.registry.header.sequence = s.registry.header.sequence
  valid : t.registry.entries[e].saved.valid = s.registry.entries[e].saved.valid
  serial : t.registry.entries[e].saved.serial = s.registry.entries[e].saved.serial
  capacity : t.registry.entries[e].saved.capacity = s.registry.entries[e].saved.capacity
  doubt : t.registry.entries[e].saved.doubt = none

/-- A doubt cleared in a state that differs from `s` in the entry's debt alone, as far as a resolution goes. -/
theorem resolved_of_cleared {t : State} {debt : Nat} (hctx : t.ctx = s.ctx) (hcarry : t.pool.carry = s.pool.carry)
    (hsequence : t.registry.header.sequence = s.registry.header.sequence)
    (hentry : t.registry.entries[e].saved = { s.registry.entries[e].saved with debt := debt }) :
    Resolved e s (t.modEntry e fun n => { n with saved := { n.saved with doubt := none }, dirty := true }) := by
  constructor
  case ctx => exact hctx
  case carry => exact hcarry
  case sequence => exact hsequence
  all_goals
    rw [modEntry_registry]
    dsimp only
    rw [upd_self]
  all_goals rw [hentry]

theorem resolved_of_debt (v : Nat) (who : Option Bay) : Resolved e s ((addDebt e v who s).modEntry e fun n =>
    { n with saved := { n.saved with doubt := none }, dirty := true }) := by
  obtain ⟨hctx, -, -, -, -, -, -, -, hcarry, hentries⟩ := addDebt_rest e v who s
  have hentry : (addDebt e v who s).registry.entries[e].saved = { s.registry.entries[e].saved with
      debt := min (s.registry.entries[e].saved.debt + v) Config.volumeMax } := by
    rw [hentries, upd_self]
  exact resolved_of_cleared hctx hcarry (addDebt_sequence v who) hentry

theorem resolved_of_resolveDoubt : Resolved e s (resolveDoubt b e level use s).1 := by
  unfold resolveDoubt
  dsimp only
  split
  · next hdoubt => exact ⟨rfl, rfl, rfl, rfl, rfl, rfl, hdoubt⟩
  · next d _ =>
    split
    · exact resolved_of_debt d.total (some b)
    · constructor
      case ctx => rfl
      case carry => rfl
      case sequence => rfl
      all_goals
        rw [modEntry_registry]
        dsimp only
        rw [upd_self]

end

/-! ### The verdicts (R124, R125, R129) -/

theorem refillChecks_ne_overdrawn (good found : Bool) (marks : List Byte) (l u c : Nat) (v : Saved) :
    refillChecks good found marks l u c v ≠ .overdrawn := by
  unfold refillChecks
  repeat' split
  all_goals decide

theorem reportedVerdict_eq (p : Policy) (checks : Verdict) (overdrawn : Bool) : reportedVerdict p checks overdrawn =
    if overdrawn = true ∧ p.rank checks < p.rank .overdrawn then .overdrawn else checks := by
  unfold reportedVerdict
  rw [ite_and]

/-- The stamps of an admission whose checks are not OVERDRAWN. -/
theorem stampsAsked_eq {p : Policy} {checks worst : Verdict} {overdrawn : Bool} (h : checks ≠ .overdrawn) :
    stampsAsked p checks overdrawn worst =
      let reported := reportedVerdict p checks overdrawn
      let other := if reported = checks then .overdrawn else checks
      let first := if p.marks reported then [reported] else []
      let second := if overdrawn = true ∧ p.marks other = true then [other] else []
      let third := if p.marks worst = true ∧ worst ∉ first ++ second then [worst] else []
      first ++ second ++ third := by
  have hchecks : (checks != .overdrawn) = true := bne_iff_ne.mpr h
  unfold stampsAsked
  simp only [hchecks, Bool.and_true, Bool.and_eq_true, Bool.not_eq_true', List.contains_eq_mem, decide_eq_false_iff_not]

/-! ### The completion (R33, R111) -/

section
variable {b : Bay} {e : EntryIx} {found good : Bool} {id level marks : List Byte} {s s1 : State}

/-- The entry with the checks' verdict, and OVERDRAWN where it arose, combined with its history. -/
def judgedEntry (p : Policy) (checks : Verdict) (overdrawn : Bool) (n : Entry) : Entry :=
  if overdrawn then combineEntry p .overdrawn (combineEntry p checks n) else combineEntry p checks n

theorem combineEntry_names (p : Policy) (v : Verdict) (n : Entry) :
    (combineEntry p v n).saved.valid = n.saved.valid ∧ (combineEntry p v n).saved.serial = n.saved.serial ∧
      (combineEntry p v n).saved.capacity = n.saved.capacity ∧ (combineEntry p v n).saved.doubt = n.saved.doubt :=
  ⟨rfl, rfl, rfl, rfl⟩

theorem judgedEntry_names (p : Policy) (v : Verdict) (overdrawn : Bool) (n : Entry) :
    (judgedEntry p v overdrawn n).saved.valid = n.saved.valid ∧
      (judgedEntry p v overdrawn n).saved.serial = n.saved.serial ∧
      (judgedEntry p v overdrawn n).saved.capacity = n.saved.capacity ∧
      (judgedEntry p v overdrawn n).saved.doubt = n.saved.doubt := by
  unfold judgedEntry
  split
  · obtain ⟨hv, hs, hc, hd⟩ := combineEntry_names p v n
    obtain ⟨hv', hs', hc', hd'⟩ := combineEntry_names p .overdrawn (combineEntry p v n)
    exact ⟨hv'.trans hv, hs'.trans hs, hc'.trans hc, hd'.trans hd⟩
  · exact combineEntry_names p v n

/-- A debt that the carry takes whole is moved there, and the entry bound with the next sequence. -/
theorem bindEntry_of_le (h : s.pool.carry[b] + s.registry.entries[e].saved.debt ≤ 2 ^ 56 - 1) : bindEntry b e s =
    let sequence := min (2 ^ 32 - 1) (s.registry.header.sequence + 1)
    { s with
      pool := { s.pool with carry := upd s.pool.carry b fun v => v + s.registry.entries[e].saved.debt }
      registry := { s.registry with
        entries := upd s.registry.entries e fun n => { n with
          inBay := some b, dirty := true, saved := { n.saved with debt := 0, lastSeen := sequence } }
        header := { s.registry.header with sequence := sequence, dirty := true } } } := by
  unfold bindEntry
  dsimp only
  rw [addCarry_of_le (s := s.modEntry e _) h]
  unfold State.modPool State.modEntry State.modHeader
  dsimp only
  rw [upd_upd]
  rfl

theorem checkingComplete_of_answer (hid : s.ctx[b].identity = some id) (hlevel : s.ctx[b].level = some level)
    (hmarks : s.ctx[b].marks = some marks) (hgood : s.ctx[b].heldCheck = some good)
    (hanswer : (lookup b { serial := pageSerial id, capacity := pageCapacity id, level := pageLevel level,
                           use := pageUse level } s) = (s1, if found then .found e else .created e)) :
    checkingComplete b s = completeAdmission b e found good id level marks s1 := by
  unfold checkingComplete
  rw [hid, hlevel, hmarks, hgood]
  dsimp only
  rw [hanswer]
  cases found <;> rfl

theorem checkingComplete_of_in_use (hid : s.ctx[b].identity = some id) (hlevel : s.ctx[b].level = some level)
    (hmarks : s.ctx[b].marks = some marks) (hgood : s.ctx[b].heldCheck = some good)
    (hfind : s.registry.find (pageSerial id) = some e) (hbay : s.registry.entries[e].inBay ≠ none) :
    checkingComplete b s = holdLookup b s := by
  unfold checkingComplete
  rw [hid, hlevel, hmarks, hgood]
  dsimp only
  rw [lookup_of_held hfind hbay]

/-- The bay bound to the judged entry, from the state that the doubt's resolution leaves. -/
def boundState (b : Bay) (e : EntryIx) (x : Entry) (s : State) : State :=
  let sequence := min (2 ^ 32 - 1) (s.registry.header.sequence + 1)
  { s with
    ctx := upd s.ctx b fun c => { c.dropHeld with action := some x.saved.held, state := x.saved.held.bayState }
    pool := { s.pool with carry := upd s.pool.carry b fun v => v + x.saved.debt }
    registry := { s.registry with
      entries := upd s.registry.entries e fun _ => { x with
        inBay := some b, dirty := true, saved := { x.saved with debt := 0, lastSeen := sequence } }
      header := { s.registry.header with sequence := sequence, dirty := true } } }

/-- The completion from the state `r.1` that the doubt's resolution leaves, told by the judged entry `x`. -/
theorem completeAdmission_eq {r : State × Bool} {x : Entry} {checks : Verdict}
    (hr : resolveDoubt b e (pageLevel level) (pageUse level) (s.modCtx b fun c => { c with owner := some e }) = r)
    (hchecks : refillChecks good found marks (pageLevel level) (pageUse level) (pageCapacity id)
      r.1.registry.entries[e].saved = checks)
    (hx : judgedEntry s.profile.policy checks r.2 r.1.registry.entries[e] = x)
    (hfit : r.1.pool.carry[b] + x.saved.debt ≤ 2 ^ 56 - 1) :
    completeAdmission b e found good id level marks s =
      judge b ((stampsAsked s.profile.policy checks r.2 x.saved.worst).foldl (fun u v => requestStamp b v u)
        (post .bayAdmitted (some b)
          (admittedPayload (reportedVerdict s.profile.policy checks r.2) x.saved.held (pageLevel level))
          (boundState b e x r.1))) := by
  have hentry : (upd r.1.registry.entries e fun n => judgedEntry s.profile.policy checks r.2 n)[e] = x :=
    (upd_self ..).trans hx
  have hjudged : judgeCartridge b e found good id level marks s = ({ r.1 with
      ctx := upd r.1.ctx b fun c => { c.dropHeld with action := some x.saved.held, state := x.saved.held.bayState }
      registry := { r.1.registry with
        entries := upd r.1.registry.entries e fun n => judgedEntry s.profile.policy checks r.2 n } }, checks, r.2) := by
    unfold judgeCartridge
    dsimp only
    rw [hr, hchecks, ← hentry]
    rfl
  have hbound : bindEntry b e (judgeCartridge b e found good id level marks s).1 = boundState b e x r.1 := by
    rw [hjudged, bindEntry_of_le (by dsimp only; rw [hentry]; exact hfit)]
    dsimp only
    rw [hentry, upd_upd, upd_congr (g := fun _ => { x with
      inBay := some b, dirty := true
      saved := { x.saved with debt := 0, lastSeen := min (2 ^ 32 - 1) (r.1.registry.header.sequence + 1) } })
      (by dsimp only; rw [hx])]
    rfl
  have hfinal : (boundState b e x r.1).registry.entries[e] = _ := upd_self ..
  unfold completeAdmission
  dsimp only
  rw [hbound, hjudged, hfinal]

end

/-- Settles O52: the completion by the lookup's answer, and the lookup that is held. -/
theorem checkingCompletesAsOneAct : Obligations.CheckingCompletesAsOneAct := by
  unfold Obligations.CheckingCompletesAsOneAct
  intro b id level marks good s hid hlevel hmarks hgood _
  refine ⟨fun e found hanswer => ?answered, fun e hfind hbay => ?held⟩
  case held => exact checkingComplete_of_in_use hid hlevel hmarks hgood hfind hbay
  case answered =>
    intro p s1 r checks judged x sequence reported other marked first second worst third bound
    have hresolved : Resolved e (s1.modCtx b fun c => { c with owner := some e }) r.1 := resolved_of_resolveDoubt
    obtain ⟨hlctx, -, -, hlcarry, hlsequence⟩ := lookup_rest b
      { serial := pageSerial id, capacity := pageCapacity id, level := pageLevel level, use := pageUse level } s
    have hprofile : s1.profile = s.profile := congrArg (fun c : Option Profile => c.getD Profile.blank)
      (keeps_lookup s b { serial := pageSerial id, capacity := pageCapacity id, level := pageLevel level,
                          use := pageUse level }).copies
    obtain ⟨hvalid, hserial, hcapacity⟩ := lookup_entry (e := e) (by rw [hanswer]; cases found <;> simp)
    have hx : judgedEntry s1.profile.policy checks r.2 r.1.registry.entries[e] = x := by
      rw [hprofile]
      rfl
    obtain ⟨hxvalid, hxserial, hxcapacity, hxdoubt⟩ :=
      judgedEntry_names s1.profile.policy checks r.2 r.1.registry.entries[e]
    rw [hx] at hxvalid hxserial hxcapacity hxdoubt
    refine ⟨hxvalid.trans (hresolved.valid.trans hvalid), hxserial.trans (hresolved.serial.trans hserial),
      hxcapacity.trans (hresolved.capacity.trans hcapacity), hxdoubt.trans hresolved.doubt, fun hfit => ?_⟩
    have hcarry : r.1.pool.carry[b] = s.pool.carry[b] := congrArg (fun v => v[b]) (hresolved.carry.trans hlcarry)
    have hchecks : checks ≠ .overdrawn := refillChecks_ne_overdrawn _ _ _ _ _ _ _
    have hmarked : s.profile.policy.marks = marked := funext fun v => by cases v <;> rfl
    have hstamps : stampsAsked s1.profile.policy checks r.2 x.saved.worst = first ++ second ++ third := by
      rw [stampsAsked_eq hchecks, reportedVerdict_eq, hprofile, hmarked]
    have hlctx : s1.ctx = s.ctx := hlctx
    have hctx : upd r.1.ctx b (fun c => { c.dropHeld with
        action := some x.saved.held, state := x.saved.held.bayState }) = bound.ctx := by
      rw [hresolved.ctx, modCtx_ctx, hlctx, upd_upd]
      rfl
    have hsequence : min (2 ^ 32 - 1) (r.1.registry.header.sequence + 1) = sequence := by
      rw [hresolved.sequence, modCtx_registry]
      exact congrArg (fun n => min (2 ^ 32 - 1) (n + 1)) hlsequence
    have hbound : boundState b e x r.1 = bound := by
      unfold boundState
      dsimp only
      rw [hctx, hsequence]
    rw [checkingComplete_of_answer hid hlevel hmarks hgood (Prod.ext rfl hanswer),
      completeAdmission_eq (r := r) (x := x) (checks := checks) rfl rfl hx (by rw [hcarry]; exact hfit), hstamps, hbound,
      reportedVerdict_eq, hprofile]
    rfl

end Sys2Proof.Machine
end

section
/-! SUPPORT. What the admission of another bay and its commits leave of a bay's own blocks, for the departure that answers
a held lookup (R26, R109). -/

namespace Sys2Proof.Machine

/-- Of bay `b`'s blocks all is kept; the proof engine gets no request of the bay and the registry no lookup of it. -/
structure LeavesBay (b : Bay) (s t : State) : Prop where
  ctx : t.ctx[b] = s.ctx[b]
  line : t.lines[b] = s.lines[b]
  mark : t.marks[b] = s.marks[b]
  commit : t.commits[b] = s.commits[b]
  link : t.link = s.link
  fifo : ∀ r ∈ t.proof.fifo, r ∈ s.proof.fifo ∨ r.bay ≠ b
  service : ∀ r, t.proof.service = some r → s.proof.service = some r ∨ r.bay ≠ b
  held : b ∈ t.registry.heldLookups → b ∈ s.registry.heldLookups

namespace LeavesBay
variable {b d : Bay} {e : EntryIx} {s t u : State}

theorem trans (h : LeavesBay b s t) (k : LeavesBay b t u) : LeavesBay b s u where
  ctx := k.ctx.trans h.ctx
  line := k.line.trans h.line
  mark := k.mark.trans h.mark
  commit := k.commit.trans h.commit
  link := k.link.trans h.link
  fifo := fun r hr => (k.fifo r hr).elim (h.fifo r) .inr
  service := fun r hr => (k.service r hr).elim (h.service r) .inr
  held := h.held ∘ k.held

theorem of_rows (hctx : t.ctx[b] = s.ctx[b]) (hline : t.lines[b] = s.lines[b]) (hmark : t.marks[b] = s.marks[b])
    (hcommit : t.commits[b] = s.commits[b]) (hlink : t.link = s.link) (hproof : t.proof = s.proof)
    (hheld : t.registry.heldLookups = s.registry.heldLookups) : LeavesBay b s t where
  ctx := hctx
  line := hline
  mark := hmark
  commit := hcommit
  link := hlink
  fifo := fun r hr => .inl (by rwa [hproof] at hr)
  service := fun r hr => .inl (by rwa [hproof] at hr)
  held := fun h => by rwa [hheld] at h

theorem refl (b : Bay) (s : State) : LeavesBay b s s := of_rows rfl rfl rfl rfl rfl rfl rfl

/-! ### The state's updates -/

theorem onlyNotices (h : OnlyNotices s t) : LeavesBay b s t :=
  of_rows (by rw [h.ctx]) (by rw [h.lines]) (by rw [h.marks]) (by rw [h.commits]) h.link h.proof (by rw [h.registry])

theorem post (k : NoticeKind) (who : Option Bay) (p : List Byte) (s : State) : LeavesBay b s (post k who p s) :=
  onlyNotices (onlyNotices_post k who p s)

theorem modEntry (f : Entry → Entry) : LeavesBay b s (s.modEntry e f) := of_rows rfl rfl rfl rfl rfl rfl rfl
theorem modHeader (f : Header → Header) : LeavesBay b s (s.modHeader f) := of_rows rfl rfl rfl rfl rfl rfl rfl
theorem modPool (f : DebitPool → DebitPool) : LeavesBay b s (s.modPool f) := of_rows rfl rfl rfl rfl rfl rfl rfl

section
variable (h : b ≠ d)
include h

theorem modCtx (f : BayContext → BayContext) : LeavesBay b s (s.modCtx d f) :=
  of_rows (upd_ne _ _ _ _ h) rfl rfl rfl rfl rfl rfl

theorem modLine (f : LineUnit → LineUnit) : LeavesBay b s (s.modLine d f) :=
  of_rows rfl (upd_ne _ _ _ _ h) rfl rfl rfl rfl rfl

theorem modMark (f : MarkWriter → MarkWriter) : LeavesBay b s (s.modMark d f) :=
  of_rows rfl rfl (upd_ne _ _ _ _ h) rfl rfl rfl rfl

theorem modCommit (f : CommitContext → CommitContext) : LeavesBay b s (s.modCommit d f) :=
  of_rows rfl rfl rfl (upd_ne _ _ _ _ h) rfl rfl rfl

theorem requestProof (who : Requester) (i : ProofInputs) : LeavesBay b s (requestProof d who i s) where
  ctx := rfl
  line := rfl
  mark := rfl
  commit := rfl
  link := rfl
  fifo := fun r hr => by
    unfold Machine.requestProof ProofEngine.enqueue at hr
    dsimp only at hr
    split at hr
    · exact .inl hr
    · obtain hr | hr := List.mem_append.mp hr
      · exact .inl hr
      · rw [List.mem_singleton.mp hr]
        exact .inr h.symm
  service := fun r hr => by
    unfold Machine.requestProof ProofEngine.enqueue at hr
    dsimp only at hr
    split at hr
    · rw [← Option.some.inj hr]
      exact .inr h.symm
    · exact .inl hr
  held := id

/-! ### Lines and stamps -/

theorem arbitrate : LeavesBay b s (arbitrate d s) := by
  unfold Machine.arbitrate
  split
  · exact modLine h _
  · exact refl b s

theorem claimArrives (c : Claim) : LeavesBay b s (claimArrives d c s).1 := by
  unfold Machine.claimArrives
  split
  · exact refl b s
  · split
    · exact (modLine h _).trans (arbitrate h)
    · exact post ..

theorem startStamps : ∀ (l : List Verdict) (s : State), LeavesBay b s (startStamps d l s)
  | [], _ => modMark h _
  | k :: ks, s => by
    unfold Machine.startStamps
    dsimp only
    split
    · exact (post ..).trans (startStamps ks _)
    · next slot _ =>
      generalize hc : Machine.claimArrives d _ (s.modMark d _) = r
      have hr : LeavesBay b s r.1 := by
        rw [← hc]
        exact (modMark h _).trans (claimArrives h _)
      obtain ⟨t, o⟩ := r
      split
      · next heq => cases heq; exact hr
      · next heq => cases heq; exact hr.trans (modMark h _)
      · next heq => cases heq; exact hr.trans ((post ..).trans (startStamps ks _))

theorem requestStamp (k : Verdict) (s : State) : LeavesBay b s (requestStamp d k s) := by
  by_cases hignored : StampIgnored d k s
  · rw [requestStamp_of_ignored hignored]
    exact refl b s
  · rw [requestStamp_of_asked hignored]
    split
    · exact startStamps h _ _
    · exact modMark h _

theorem stamps : ∀ (l : List Verdict) (s : State), LeavesBay b s (l.foldl (fun t k => Machine.requestStamp d k t) s)
  | [], s => refl b s
  | k :: ks, s => (requestStamp h k s).trans (stamps ks _)

end

/-! ### The pool and the registry -/

theorem writeOff (v : Nat) (who : Option Bay) (s : State) : LeavesBay b s (writeOff v who s) := by
  obtain ⟨hctx, hlines, hcommits, hmarks, hproof, hlink, -, -, -, -, -, hheld⟩ := writeOff_rest v who s
  exact of_rows (by rw [hctx]) (by rw [hlines]) (by rw [hmarks]) (by rw [hcommits]) hlink hproof hheld

theorem addDebt (v : Nat) (who : Option Bay) (s : State) : LeavesBay b s (addDebt e v who s) := by
  unfold Machine.addDebt
  exact (modEntry _).trans (writeOff ..)

theorem addCarry (v : Nat) (s : State) : LeavesBay b s (addCarry d v s) := by
  unfold Machine.addCarry
  exact (modPool _).trans (writeOff ..)

theorem fold (s : State) : LeavesBay b s (fold d s) := by
  unfold Machine.fold
  split
  · exact refl b s
  · exact (addDebt ..).trans (modPool _)

theorem lookup (k : LookupKey) (s : State) : LeavesBay b s (lookup d k s).1 := by
  unfold Machine.lookup
  split
  · split
    · exact modEntry _
    · exact refl b s
  · split
    · exact modEntry _
    · split
      · exact ((writeOff ..).trans (modEntry _)).trans (modEntry _)
      · exact refl b s

theorem resolveDoubt (level use : Nat) (s : State) : LeavesBay b s (resolveDoubt d e level use s).1 := by
  unfold Machine.resolveDoubt
  dsimp only
  split
  · exact refl b s
  · split
    · exact (addDebt ..).trans (modEntry _)
    · exact modEntry _

theorem dropLookup : LeavesBay b s (dropLookup d s) where
  ctx := rfl
  line := rfl
  mark := rfl
  commit := rfl
  link := rfl
  fifo := fun _ => .inl
  service := fun _ => .inl
  held := fun hmem => List.mem_of_mem_filter hmem

section
variable (h : b ≠ d)
include h

theorem holdLookup : LeavesBay b s (holdLookup d s) := by
  unfold Machine.holdLookup postTagFault
  refine LeavesBay.trans ?_ (post ..)
  exact {
    ctx := rfl
    line := rfl
    mark := rfl
    commit := rfl
    link := rfl
    fifo := fun _ => .inl
    service := fun _ => .inl
    held := fun hmem => (List.mem_append.mp hmem).elim id fun hd => absurd (List.mem_singleton.mp hd) h }

/-! ### Commits -/

theorem returnBatch (s : State) : LeavesBay b s (returnBatch d e s) := by
  unfold Machine.returnBatch
  dsimp only
  exact (((modPool _).trans (addCarry ..)).trans (modEntry _)).trans (modCommit h _)

theorem commitStart (s : State) : LeavesBay b s (commitStart d e s) := by
  have hform : LeavesBay b s (formBatch d e s) := by
    unfold formBatch
    dsimp only
    exact ((modPool _).trans (modEntry _)).trans (modCommit h _)
  unfold Machine.commitStart
  dsimp only
  refine hform.trans ?_
  split
  · exact ((modEntry _).trans (modPool _)).trans (modCommit h _)
  · split
    · exact (returnBatch h _).trans ((modCtx h _).trans (post ..))
    · exact (modCommit h _).trans (requestProof h ..)

theorem judge (s : State) : LeavesBay b s (judge d s) := by
  unfold Machine.judge
  split
  · exact commitStart h s
  · exact refl b s

/-! ### The completion of checking -/

theorem completeAdmission (found good : Bool) (id level marks : List Byte) (s : State) :
    LeavesBay b s (completeAdmission d e found good id level marks s) := by
  have hjudged : LeavesBay b s (judgeCartridge d e found good id level marks s).1 := by
    unfold judgeCartridge
    dsimp only
    exact (modCtx h _).trans ((resolveDoubt ..).trans ((modEntry _).trans (modCtx h _)))
  have hbound (t : State) : LeavesBay b t (bindEntry d e t) := by
    unfold bindEntry
    dsimp only
    exact (modEntry _).trans ((addCarry ..).trans ((modEntry _).trans (modHeader _)))
  unfold Machine.completeAdmission
  dsimp only
  exact hjudged.trans ((hbound _).trans ((post ..).trans ((stamps h _ _).trans (judge h _))))

theorem checkingComplete (s : State) : LeavesBay b s (checkingComplete d s) := by
  unfold Machine.checkingComplete
  split
  · next id level marks good _ _ _ _ =>
    generalize hl : Machine.lookup d _ s = r
    have hr : LeavesBay b s r.1 := by
      rw [← hl]
      exact lookup ..
    obtain ⟨t, answer⟩ := r
    cases answer with
    | found e => exact hr.trans (completeAdmission h ..)
    | created e => exact hr.trans (completeAdmission h ..)
    | held => exact hr.trans (holdLookup h)
    | noEntry => exact hr
  · exact refl b s

end

/-- The answer to a held lookup leaves a bay that holds none. -/
theorem answerHeld (serial : BitVec 64) (hheld : b ∉ s.registry.heldLookups) : LeavesBay b s (answerHeld serial s) := by
  unfold Machine.answerHeld
  split
  · next d hd =>
    have hne : b ≠ d := fun e => hheld (e ▸ List.mem_of_find?_eq_some hd)
    exact dropLookup.trans (checkingComplete hne _)
  · exact refl b s

end LeavesBay

end Sys2Proof.Machine
end

section
/-! SUPPORT. The departure of a bay: its pieces, and what they leave (R26, R98, R99, R109, R111, R152). -/

namespace Sys2Proof.Machine

/-! ### The pieces of a departure -/

section
variable {b : Bay} {s : State}

theorem linkDeparture_eq : linkDeparture b s = { s with link := (linkDeparture b s).link } := by
  unfold linkDeparture respond
  split
  · split
    · split <;> rfl
    · rfl
  · rfl

theorem linkDeparture_orphan : (linkDeparture b s).link.orphan[b] = false := upd_self ..

/-- The bay's open transaction is answered ABSENT (R152). -/
theorem linkDeparture_outstanding {x : LinkTransaction} {r : LinkRequest} (hx : s.link.outstanding = some x)
    (hr : x.request = some r) (hspace : r.space = .supply) (haddr : r.addr.toNat < 8192) (hbay : supplyBay r.addr = b)
    (hopen : x.response = none) : (linkDeparture b s).link.state = .responding ∧
      (linkDeparture b s).link.outstanding =
        some { x with waitsOrphan := false, response := some { status := .absent, data := [] } } := by
  have hlink : s.link.bay = some b := by
    unfold LinkPort.bay
    rw [hx]
    dsimp only
    rw [hr]
    dsimp only
    rw [if_pos ⟨hspace, haddr⟩, hbay]
  unfold linkDeparture
  rw [if_pos hlink, respond_of_open .absent [] hx hopen]
  exact ⟨rfl, rfl⟩

theorem addDebt_heldLookups (e : EntryIx) (v : Nat) (who : Option Bay) (t : State) :
    (addDebt e v who t).registry.heldLookups = t.registry.heldLookups := by
  obtain ⟨-, -, -, -, -, -, -, -, -, -, -, hheld⟩ := writeOff_rest
    (t.registry.entries[e].saved.debt + v - Config.volumeMax) who
    (t.modEntry e fun n => { n with
      saved := { n.saved with debt := min (n.saved.debt + v) Config.volumeMax }, dirty := true })
  rw [addDebt_eq, hheld, modEntry_registry]

theorem addCarry_heldLookups (v : Nat) (t : State) :
    (addCarry b v t).registry.heldLookups = t.registry.heldLookups := by
  obtain ⟨-, -, -, -, -, -, -, -, -, -, -, hheld⟩ := writeOff_rest
    (t.pool.carry[b] + v - Config.volumeMax) (some b)
    (t.modPool fun p => { p with carry := upd p.carry b fun n => min (n + v) Config.volumeMax })
  rw [addCarry_eq, hheld, modPool_registry]

theorem returnBatch_heldLookups (e : EntryIx) (t : State) :
    (returnBatch b e t).registry.heldLookups = t.registry.heldLookups := by
  have hsettled (u : State) (f : Entry → Entry) (g : CommitContext → CommitContext) :
      ((u.modEntry e f).modCommit b g).registry.heldLookups = u.registry.heldLookups := rfl
  unfold returnBatch
  exact (hsettled _ _ _).trans (addCarry_heldLookups ..)

theorem fold_heldLookups (t : State) : (fold b t).registry.heldLookups = t.registry.heldLookups := by
  unfold fold
  split
  · rfl
  · dsimp only
    rw [modPool_registry, addDebt_heldLookups]

/-- What every settlement of a departing bay's commit leaves of the rest of the bay. -/
structure SettlesCommit (s t : State) : Prop where
  ctx : t.ctx = s.ctx
  lines : t.lines = s.lines
  marks : t.marks = s.marks
  proof : t.proof = s.proof
  link : t.link = s.link
  held : t.registry.heldLookups = s.registry.heldLookups

theorem settlesCommit_abandonCommit (sent : Bool) : SettlesCommit s (abandonCommit b sent s).1 := by
  unfold abandonCommit
  split
  · exact ⟨rfl, rfl, rfl, rfl, rfl, rfl⟩
  · next e _ =>
    split
    · exact ⟨rfl, rfl, rfl, rfl, rfl, rfl⟩
    · split
      · exact ⟨rfl, rfl, rfl, rfl, rfl, rfl⟩
      · obtain ⟨hctx, hlines, hmarks, hproof, hlink, -⟩ := returnBatch_rest b e s
        exact ⟨hctx, hlines, hmarks, hproof, hlink, returnBatch_heldLookups e s⟩

theorem abandonCommit_idle (sent : Bool) (h : s.commits[b].state ≠ .idle → s.ctx[b].owner ≠ none) :
    (abandonCommit b sent s).1.commits[b].state = .idle := by
  by_cases hidle : s.commits[b].state = .idle
  · unfold abandonCommit
    split
    · exact hidle
    · rw [if_pos hidle]
      exact hidle
  · obtain ⟨e, howner⟩ := Option.ne_none_iff_exists'.mp (h hidle)
    unfold abandonCommit
    rw [howner]
    dsimp only
    rw [if_neg hidle]
    split
    · exact congrArg CommitContext.state (upd_self ..)
    · obtain ⟨-, -, -, -, -, hcommits, -⟩ := returnBatch_rest b e s
      refine (congrArg (fun v => v[b].state) hcommits).trans ?_
      rw [upd_self]
      rfl

/-- The state of a departure that has settled, folded and posted, before the bay is released. -/
def departing (b : Bay) (s : State) : State :=
  let r := abandonCommit b s.lines[b].commitStoreSent (linkDeparture b s)
  post .bayDeparted (some b) (departedPayload (r.1.foldVolume b) r.2) (leaveBay s.ctx[b].owner (fold b r.1))

/-- The state of a departure before the lookup held on its serial is answered. -/
def departed (b : Bay) (s : State) : State := releaseBay b (departing b s)

theorem departure_of_owner {e : EntryIx} (h : s.ctx[b].owner = some e) :
    departure b s = answerHeld s.registry.entries[e].saved.serial (departed b s) := by
  unfold departure departed departing
  dsimp only
  rw [h]

theorem departure_of_none (h : s.ctx[b].owner = none) : departure b s = departed b s := by
  unfold departure departed departing
  dsimp only
  rw [h]

theorem absenceExpires_of_running {n : Nat} (hstate : s.ctx[b].state ≠ .empty) (h : s.ctx[b].absence = .running n) :
    absenceExpires b s = departure b s := by
  unfold absenceExpires
  rw [h]
  exact if_neg hstate

end

/-! ### What a departure leaves (R26) -/

section
variable {b : Bay} {s : State}

theorem releaseBay_eq (t : State) : releaseBay b t = { t with
    ctx := upd t.ctx b fun _ => BayContext.reset
    lines := upd t.lines b LineUnit.abandon
    marks := upd t.marks b MarkWriter.becomeIdle
    commits := upd t.commits b fun c => { c with lowPosted := false }
    proof := t.proof.cancel b
    registry := { t.registry with heldLookups := t.registry.heldLookups.filter (· != b) } } := by
  unfold releaseBay emptyContext dropLookup State.modLine State.modMark State.modCommit State.modCtx
  rfl

theorem leaveBay_rest (o : Option EntryIx) (t : State) : (leaveBay o t).ctx = t.ctx ∧ (leaveBay o t).lines = t.lines ∧
    (leaveBay o t).marks = t.marks ∧ (leaveBay o t).commits = t.commits ∧ (leaveBay o t).proof = t.proof ∧
    (leaveBay o t).link = t.link ∧ (leaveBay o t).registry.heldLookups = t.registry.heldLookups := by
  unfold leaveBay
  split <;> exact ⟨rfl, rfl, rfl, rfl, rfl, rfl, rfl⟩

/-- The state that the release of the bay follows, told by the state before the departure. -/
structure Departing (b : Bay) (s t : State) : Prop where
  ctx : t.ctx = s.ctx
  lines : t.lines = s.lines
  marks : t.marks = s.marks
  proof : t.proof = s.proof
  link : t.link = (linkDeparture b s).link
  held : t.registry.heldLookups = s.registry.heldLookups
  idle : (s.commits[b].state ≠ .idle → s.ctx[b].owner ≠ none) → t.commits[b].state = .idle

theorem departing_departing : Departing b s (departing b s) := by
  unfold departing
  dsimp only
  generalize hr : abandonCommit b s.lines[b].commitStoreSent (linkDeparture b s) = r
  have hsettled : SettlesCommit (linkDeparture b s) r.1 := by
    rw [← hr]
    exact settlesCommit_abandonCommit _
  have hidle (h : s.commits[b].state ≠ .idle → s.ctx[b].owner ≠ none) : r.1.commits[b].state = .idle := by
    rw [← hr]
    exact abandonCommit_idle _ (by rw [linkDeparture_eq]; exact h)
  obtain ⟨hfctx, hflines, hfcommits, hfmarks, hfproof, hflink, -⟩ := fold_rest b r.1
  obtain ⟨hlctx, hllines, hlmarks, hlcommits, hlproof, hllink, hlheld⟩ := leaveBay_rest s.ctx[b].owner (fold b r.1)
  have hlink := linkDeparture_eq (b := b) (s := s)
  constructor
  case ctx => rw [post_ctx, hlctx, hfctx, hsettled.ctx, hlink]
  case lines => rw [post_lines, hllines, hflines, hsettled.lines, hlink]
  case marks => rw [post_marks, hlmarks, hfmarks, hsettled.marks, hlink]
  case proof => rw [post_proof, hlproof, hfproof, hsettled.proof, hlink]
  case link => rw [post_link, hllink, hflink, hsettled.link]
  case held => rw [post_registry, hlheld, fold_heldLookups, hsettled.held, hlink]
  case idle => exact fun h => by rw [post_commits, hlcommits, hfcommits, hidle h]

theorem cancel_fifo {p : ProofEngine} {r : ProofRequest} (h : r ∈ (p.cancel b).fifo) : r.bay ≠ b :=
  bne_iff_ne.mp (List.mem_filter.mp h).2

theorem cancel_service {p : ProofEngine} {r : ProofRequest} (h : (p.cancel b).service = some r) (hbay : r.bay = b) :
    r.cancelled = true := by
  obtain ⟨q, -, rfl⟩ := Option.map_eq_some_iff.mp h
  by_cases hq : q.bay = b
  · rw [if_pos hq]
  · rw [if_neg hq] at hbay
    exact absurd hbay hq

/-- The bay released, and left so by the answer to the lookup held on its serial. -/
theorem leavesBay_departure : LeavesBay b (departed b s) (departure b s) := by
  cases howner : s.ctx[b].owner with
  | none =>
    rw [departure_of_none howner]
    exact .refl b _
  | some e =>
    rw [departure_of_owner howner]
    refine .answerHeld _ fun hmem => ?_
    rw [departed, releaseBay_eq] at hmem
    exact bne_iff_ne.mp (List.mem_filter.mp hmem).2 rfl

/-- A bay without an owner has nothing to settle or to fold. -/
theorem departing_of_none (h : s.ctx[b].owner = none) :
    departing b s = post .bayDeparted (some b) (toLE 8 0 ++ [0x00#8]) (linkDeparture b s) := by
  have hown : (linkDeparture b s).ctx[b].owner = none := by rw [linkDeparture_eq]; exact h
  have hsettle (sent : Bool) : abandonCommit b sent (linkDeparture b s) = (linkDeparture b s, false) := by
    unfold abandonCommit
    rw [hown]
  have hvolume : (linkDeparture b s).foldVolume b = 0 := by
    unfold State.foldVolume
    rw [hown]
  have hfold : fold b (linkDeparture b s) = linkDeparture b s := by
    unfold fold
    rw [hown]
  unfold departing
  dsimp only
  rw [hsettle, hvolume, hfold, h]
  rfl

end

/-- Settles O19: the bay released, and what the answer to a held lookup leaves of it. -/
theorem departureEmptiesTheBay : Obligations.DepartureEmptiesTheBay := by
  unfold Obligations.DepartureEmptiesTheBay
  intro b n s hpow hstate habsence hcommit
  have hexec : exec (.absenceTimerExpiry b) s = .next (finish (absenceExpires b s)) := exec_of_powered (by simp) rfl hpow
  rw [absenceExpires_of_running hstate habsence] at hexec
  have hbefore := departing_departing (b := b) (s := s)
  have hafter := leavesBay_departure (b := b) (s := s)
  have hkeeps := keeps_departure s b
  have hreleased := releaseBay_eq (b := b) (departing b s)
  rw [← departed] at hreleased
  have hheld : b ∉ (departed b s).registry.heldLookups := by
    rw [hreleased]
    exact fun hmem => bne_iff_ne.mp (List.mem_filter.mp hmem).2 rfl
  have hlink : (departed b s).link = (linkDeparture b s).link := by rw [hreleased, hbefore.link]
  refine ⟨departure b s, hexec, ?_, ?_, ?_, ?_, ?_, ?_, fun r hr => ?_, fun r hr hbay => ?_, fun hmem => hheld (hafter.held hmem),
    ?_, fun x r hx hr hspace haddr hbay hopen => ?_, hkeeps.tracker, hkeeps.meter, hkeeps.part, fun hnone => ?_⟩
  · rw [hafter.ctx, hreleased]
    exact upd_self ..
  · rw [hafter.line, hreleased, hbefore.lines]
    exact upd_self ..
  · rw [hafter.mark, hreleased]
    exact congrArg MarkWriter.list (upd_self ..)
  · rw [hafter.mark, hreleased]
    exact congrArg MarkWriter.inHand (upd_self ..)
  · rw [hafter.commit, hreleased]
    exact (congrArg CommitContext.state (upd_self ..)).trans (hbefore.idle hcommit)
  · rw [hafter.commit, hreleased]
    exact congrArg CommitContext.lowPosted (upd_self ..)
  · obtain hr | hne := hafter.fifo r hr
    · rw [hreleased] at hr
      exact cancel_fifo hr
    · exact hne
  · obtain hr | hne := hafter.service r hr
    · rw [hreleased] at hr
      exact cancel_service hr hbay
    · exact absurd hbay hne
  · rw [hafter.link, hlink, linkDeparture_orphan]
  · obtain ⟨hresponding, hanswered⟩ := linkDeparture_outstanding hx hr hspace haddr hbay hopen
    rw [hafter.link, hlink]
    exact ⟨hresponding, _, hanswered, rfl⟩
  · rw [departure_of_none hnone, hreleased, departing_of_none hnone, linkDeparture_eq]
    dsimp only
    rw [post_registry, post_poolPend, post_poolBatch, post_poolCarry, post_poolRecords]
    exact ⟨post_notices_congr _ _ _ rfl rfl, rfl, rfl, rfl, rfl, rfl⟩

end Sys2Proof.Machine
end

section
/-! SUPPORT. What a departure folds and settles, and the held lookup that it answers (R26, R77, R98, R99, R109, R111). -/

namespace Sys2Proof.Machine

section
variable {b : Bay} {e : EntryIx} {s r : State} {doubted sent : Bool}

/-! ### The three settlements (R98, R99) -/

theorem abandonCommit_of_idle (h : s.commits[b].state = .idle) : abandonCommit b sent s = (s, false) := by
  unfold abandonCommit
  split
  · rfl
  · exact if_pos h

theorem abandonCommit_of_unsent (howner : s.ctx[b].owner = some e) (h : s.commits[b].state ≠ .idle) :
    abandonCommit b false s = (returnBatch b e s, false) := by
  unfold abandonCommit
  rw [howner]
  dsimp only
  rw [if_neg h, if_neg (by decide)]

theorem abandonCommit_of_sent (howner : s.ctx[b].owner = some e) (h : s.commits[b].state ≠ .idle) :
    abandonCommit b true s = (abandonInDoubt b e s, true) := by
  unfold abandonCommit
  rw [howner]
  dsimp only
  rw [if_neg h, if_pos rfl]

/-! ### The fold and the post (R77, R111) -/

/-- What a departure leaves of the pool, the entry, the header and the notices, from the state `r` that its commit's
settlement leaves. -/
theorem departed_of_settled
    (hsettle : abandonCommit b s.lines[b].commitStoreSent (linkDeparture b s) = (r, doubted))
    (howner : s.ctx[b].owner = some e) (hown : r.ctx[b].owner = some e)
    (hfit : r.registry.entries[e].saved.debt + (r.pool.pend[b].total + r.pool.carry[b]) ≤ 2 ^ 56 - 1) :
    let t := departed b s
    let volume := r.pool.pend[b].total + r.pool.carry[b]
    t.pool.pend[b] = Queue.empty ∧ t.pool.carry[b] = 0 ∧ t.pool.batch = r.pool.batch ∧
      t.registry.entries[e] = { r.registry.entries[e] with
        inBay := none, dirty := true
        saved := { r.registry.entries[e].saved with debt := r.registry.entries[e].saved.debt + volume } } ∧
      t.registry.header = r.registry.header ∧
      t.notices = (post .bayDeparted (some b) (toLE 8 volume ++ [BitVec.ofNat 8 doubted.toNat]) r).notices := by
  have hvolume : r.foldVolume b = r.pool.pend[b].total + r.pool.carry[b] := by
    unfold State.foldVolume
    rw [hown]
  have hdeparting : departing b s = post .bayDeparted (some b)
      (departedPayload (r.pool.pend[b].total + r.pool.carry[b]) doubted) (leaveBay (some e) (fold b r)) := by
    unfold departing
    dsimp only
    rw [hsettle, howner]
    dsimp only
    rw [hvolume]
  dsimp only
  rw [departed, releaseBay_eq, hdeparting]
  dsimp only
  rw [post_poolPend, post_poolCarry, post_poolBatch, post_registry, fold_of_le hown hfit]
  unfold leaveBay State.modPool State.modEntry
  dsimp only
  rw [pendToFree_pend, upd_self, upd_self, upd_self, upd_self]
  exact ⟨rfl, rfl, rfl, rfl, rfl, post_notices_congr _ _ _ rfl rfl⟩

theorem departed_ctx : (departed b s).ctx = upd s.ctx b fun _ => BayContext.reset := by
  rw [departed, releaseBay_eq, departing_departing.ctx]

theorem departed_heldLookups :
    (departed b s).registry.heldLookups = s.registry.heldLookups.filter fun d => d != b := by
  rw [departed, releaseBay_eq, departing_departing.held]

/-! ### The lookup held on the serial (R109) -/

theorem answerHeld_of_none {serial : BitVec 64}
    (h : ∀ d ∈ s.registry.heldLookups, pageSerial (s.ctx[d].identity.getD []) ≠ serial) : answerHeld serial s = s := by
  have hnone : (s.registry.heldLookups.find? fun d => pageSerial (s.ctx[d].identity.getD []) == serial) = none :=
    List.find?_eq_none.mpr fun d hd => by rw [beq_iff_eq]; exact h d hd
  unfold answerHeld
  rw [hnone]

theorem answerHeld_of_first {serial : BitVec 64} {pre suf : List Bay} {d : Bay}
    (hheld : s.registry.heldLookups = pre ++ d :: suf) (hd : pageSerial (s.ctx[d].identity.getD []) = serial)
    (hpre : ∀ a ∈ pre, pageSerial (s.ctx[a].identity.getD []) ≠ serial) :
    answerHeld serial s = checkingComplete d (dropLookup d s) := by
  have hfirst : (s.registry.heldLookups.find? fun a => pageSerial (s.ctx[a].identity.getD []) == serial) = some d := by
    rw [List.find?_eq_some_iff_append]
    refine ⟨beq_iff_eq.mpr hd, pre, suf, hheld, fun a ha => ?_⟩
    rw [Bool.not_eq_true', beq_eq_false_iff_ne]
    exact hpre a ha
  unfold answerHeld
  rw [hfirst]

/-! ### The account of each settlement -/

/-- What a settlement has to leave for the fold that follows it. -/
structure Settles (b : Bay) (e : EntryIx) (s r : State) : Prop where
  owner : r.ctx[b].owner = some e
  fits : r.registry.entries[e].saved.debt + (r.pool.pend[b].total + r.pool.carry[b]) ≤ 2 ^ 56 - 1
  header : r.registry.header = s.registry.header
  notices : r.notices = s.notices
  starved : r.pool.starved = s.pool.starved

theorem abandonInDoubt_entry (t : State) : (abandonInDoubt b e t).registry.entries[e] = { t.registry.entries[e] with
    dirty := true
    saved := { t.registry.entries[e].saved with doubt := some {
      priorLevel := t.commits[b].priorLevel, priorUse := t.commits[b].priorUse, expectedLevel := t.commits[b].newLevel
      expectedUse := t.commits[b].newUse, total := t.commits[b].total, overdraw := t.commits[b].excess } } } := by
  unfold abandonInDoubt
  dsimp only
  rw [modCommit_registry, modPool_registry, modEntry_registry]
  dsimp only
  rw [upd_self]

section
variable {l : LinkPort} (howner : s.ctx[b].owner = some e)
  (hfit : s.registry.entries[e].saved.debt + (s.pool.pend[b].total + s.pool.carry[b]) +
    (s.pool.batch[b].total + s.commits[b].batchCarry) ≤ 2 ^ 56 - 1)
include howner hfit

theorem settles_idle : Settles b e s { s with link := l } :=
  ⟨howner, by dsimp only; omega, rfl, rfl, rfl⟩

theorem settles_doubt : Settles b e s (abandonInDoubt b e { s with link := l }) := by
  have hdebt : (abandonInDoubt b e { s with link := l }).registry.entries[e].saved.debt =
      s.registry.entries[e].saved.debt := by
    rw [abandonInDoubt_entry]
  have hpend : (abandonInDoubt b e { s with link := l }).pool.pend = s.pool.pend := rfl
  have hcarry : (abandonInDoubt b e { s with link := l }).pool.carry = s.pool.carry := rfl
  exact ⟨howner, by rw [hdebt, hpend, hcarry]; omega, rfl, rfl, rfl⟩

/-- The state of a batch that is returned whole. -/
theorem returnBatch_account (hp : s.pool.Partitioned) :
    let r := returnBatch b e { s with link := l }
    r.pool.pend[b].total + r.pool.carry[b] =
        s.pool.pend[b].total + s.pool.carry[b] + (s.pool.batch[b].total + s.commits[b].batchCarry) ∧
      r.pool.batch[b] = Queue.empty ∧
      r.registry.entries[e] = { s.registry.entries[e] with saved := { s.registry.entries[e].saved with
        residue := s.registry.entries[e].saved.residue + s.commits[b].batchResidue } } ∧
      Settles b e s r := by
  have hcarry : s.pool.carry[b] + s.commits[b].batchCarry ≤ 2 ^ 56 - 1 := by omega
  obtain ⟨hctx, -, -, -, -, -, hpend, hbatch, -, hentries⟩ := returnBatch_rest b e { s with link := l }
  have hall := returnBatch_of_le (s := { s with link := l }) e hcarry
  have hadded : (returnBatch b e { s with link := l }).pool.carry[b] = s.pool.carry[b] + s.commits[b].batchCarry := by
    rw [hall]
    exact upd_self ..
  have hheader : (returnBatch b e { s with link := l }).registry.header = s.registry.header := by
    rw [hall]
    rfl
  obtain ⟨hnotices, hstarved⟩ := returnBatch_notices (s := { s with link := l }) (e := e) hcarry
  have hentry : (returnBatch b e { s with link := l }).registry.entries[e] =
      { s.registry.entries[e] with saved := { s.registry.entries[e].saved with
        residue := s.registry.entries[e].saved.residue + s.commits[b].batchResidue } } := by
    rw [hentries, upd_self]
  have htotal : (returnBatch b e { s with link := l }).pool.pend[b].total + (s.pool.carry[b] + s.commits[b].batchCarry) =
      s.pool.pend[b].total + s.pool.carry[b] + (s.pool.batch[b].total + s.commits[b].batchCarry) := by
    rw [hpend, (batchToPend_sums hp).1]
    omega
  dsimp only
  rw [hadded, htotal]
  refine ⟨rfl, by rw [hbatch, batchToPend_batch, upd_self], hentry, ?_⟩
  exact ⟨by rw [hctx, howner], by rw [hadded, htotal, hentry]; dsimp only; omega, hheader, hnotices, hstarved⟩

/-- Whichever way the commit is settled, the fold finds room in the debt. -/
theorem settles_abandonCommit (hp : s.pool.Partitioned) :
    Settles b e s (abandonCommit b sent { s with link := l }).1 := by
  by_cases hidle : s.commits[b].state = .idle
  · rw [abandonCommit_of_idle (s := { s with link := l }) hidle]
    exact settles_idle howner hfit
  · cases sent with
    | false =>
      rw [abandonCommit_of_unsent (s := { s with link := l }) howner hidle]
      exact (returnBatch_account howner hfit hp).2.2.2
    | true =>
      rw [abandonCommit_of_sent (s := { s with link := l }) howner hidle]
      exact settles_doubt howner hfit

end

end

/-- Settles O20: the three settlements through the fold, and the answer to the lookup held first on the serial. -/
theorem departureFoldsTheBaysVolume : Obligations.DepartureFoldsTheBaysVolume := by
  unfold Obligations.DepartureFoldsTheBaysVolume
  intro b e n s hpow hstate habsence howner hp c x waits batch left asks hfit
  have hexec : exec (.absenceTimerExpiry b) s = .next (finish (absenceExpires b s)) := exec_of_powered (by simp) rfl hpow
  rw [absenceExpires_of_running hstate habsence, departure_of_owner howner] at hexec
  obtain ⟨l, hl⟩ : ∃ l, linkDeparture b s = { s with link := l } := ⟨_, linkDeparture_eq⟩
  have hnotices {r : State} {p : List Byte} (hr : Settles b e s r) :
      (post .bayDeparted (some b) p r).notices = (post .bayDeparted (some b) p s).notices :=
    post_notices_congr _ _ _ hr.notices hr.starved
  have hany : Settles b e s (abandonCommit b s.lines[b].commitStoreSent (linkDeparture b s)).1 := by
    rw [hl]
    exact settles_abandonCommit howner hfit hp
  obtain ⟨hpend, hcarry, -, hentry, hheader, -⟩ := departed_of_settled (Prod.ext rfl rfl) howner hany.owner hany.fits
  have hheld : (departed b s).registry.heldLookups = left := departed_heldLookups
  have hsame {d : Bay} (hd : d ∈ left) : (departed b s).ctx[d] = s.ctx[d] := by
    rw [departed_ctx]
    exact upd_ne _ _ _ _ (bne_iff_ne.mp (List.mem_filter.mp hd).2)
  refine ⟨departed b s, hpend, hcarry, departed_ctx, by rw [hentry], by rw [hentry], hheader.trans hany.header, hheld,
    fun hidle => ?idle, fun hbusy hunsent => ?unsent, fun hbusy hsent => ?sent, fun hnone => ?none,
    fun pre suf d hleft hd hpre => ?first⟩
  case idle =>
    have hr := settles_idle (l := l) howner hfit
    obtain ⟨-, -, -, hentry, -, hpost⟩ := departed_of_settled
      (by rw [hl]; exact abandonCommit_of_idle (s := { s with link := l }) hidle) howner hr.owner hr.fits
    exact ⟨congrArg Entry.saved hentry, hpost.trans (hnotices hr)⟩
  case unsent =>
    obtain ⟨hvolume, hbatch, hreturned, hr⟩ := returnBatch_account (l := l) howner hfit hp
    obtain ⟨-, -, hbatches, hentry, -, hpost⟩ := departed_of_settled
      (by rw [hl, hunsent]; exact abandonCommit_of_unsent (s := { s with link := l }) howner hbusy) howner hr.owner hr.fits
    rw [hvolume] at hentry hpost
    refine ⟨by rw [hbatches, hbatch], ?_, hpost.trans (hnotices hr)⟩
    rw [hentry, hreturned]
    exact congrArg (fun v => { x with debt := v, residue := x.residue + c.batchResidue }) (Nat.add_assoc ..).symm
  case sent =>
    have hr := settles_doubt (l := l) howner hfit
    obtain ⟨-, -, hbatches, hentry, -, hpost⟩ := departed_of_settled
      (by rw [hl, hsent]; exact abandonCommit_of_sent (s := { s with link := l }) howner hbusy) howner hr.owner hr.fits
    refine ⟨?_, ?_, hpost.trans (hnotices hr)⟩
    · rw [hbatches]
      exact upd_self ..
    · rw [hentry, abandonInDoubt_entry]
      rfl
  case none =>
    rw [hexec, answerHeld_of_none fun d hd => ?_]
    rw [hheld] at hd
    rw [hsame hd]
    exact hnone d hd
  case first =>
    have hmem {a : Bay} (ha : a ∈ pre ++ d :: suf) : a ∈ left := hleft ▸ ha
    rw [hexec, answerHeld_of_first (pre := pre) (suf := suf) (d := d) (hheld.trans hleft), dropLookup, hheld]
    · rw [hsame (hmem (List.mem_append_right _ List.mem_cons_self))]
      exact hd
    · intro a ha
      rw [hsame (hmem (List.mem_append_left _ ha))]
      exact hpre a ha

end Sys2Proof.Machine
end

section
/-! SUPPORT. The entry to DRAIN bay after bay: what a bay's turn does, and what it leaves of the other bays (R20, R27, R79,
R101, R172). -/

namespace Sys2Proof.Machine

theorem pendToFree_carry {b : Bay} {p : DebitPool} : (p.pendToFree b).carry = p.carry := rfl

/-! ### One bay's turn among eight -/

/-- A bay's own turn stands between turns of other bays. -/
theorem forBays_turn {b : Bay} {f : Bay → State → State} {R : State → State → Prop} (hrefl : ∀ t, R t t)
    (htrans : ∀ t u v, R t u → R u v → R t v) (hother : ∀ d t, d ≠ b → R t (f d t)) (s : State) :
    ∃ t, R s t ∧ R (f b t) (forBays f s) := by
  have hfold : ∀ (l : List Bay) (s : State), b ∉ l → R s (l.foldl (fun t d => f d t) s) := by
    intro l
    induction l with
    | nil => exact fun s _ => hrefl s
    | cons d l ih =>
      intro s hb
      rw [List.mem_cons, not_or] at hb
      exact htrans _ _ _ (hother d s (Ne.symm hb.1)) (ih _ hb.2)
  have hnodup : allBays.Nodup := by decide
  obtain ⟨pre, suf, hsplit⟩ := List.append_of_mem (mem_allBays b)
  rw [hsplit, List.nodup_middle, List.nodup_cons, List.mem_append, not_or] at hnodup
  obtain ⟨⟨hpre, hsuf⟩, -⟩ := hnodup
  refine ⟨pre.foldl (fun t d => f d t) s, hfold pre s hpre, ?_⟩
  rw [forBays, hsplit, List.foldl_append, List.foldl_cons]
  exact hfold suf _ hsuf

/-- What an act beside bay `b`'s debt leaves: the bay's context, commit and queues, and the saved fields of an entry that no
other bay owns. -/
structure BayKept (b : Bay) (s t : State) : Prop where
  ctx : t.ctx[b] = s.ctx[b]
  commit : t.commits[b] = s.commits[b]
  pend : t.pool.pend[b] = s.pool.pend[b]
  batch : t.pool.batch[b] = s.pool.batch[b]
  carry : t.pool.carry[b] = s.pool.carry[b]
  held : b ∈ t.registry.heldLookups → b ∈ s.registry.heldLookups
  part : t.part = s.part
  pool : s.pool.Partitioned → t.pool.Partitioned
  entry : ∀ e : EntryIx, (∀ c : Bay, c ≠ b → s.ctx[c].owner ≠ some e) →
    t.registry.entries[e].saved = s.registry.entries[e].saved ∧ ∀ c : Bay, c ≠ b → t.ctx[c].owner ≠ some e

/-- What a turn of another bay leaves for bay `b`: its line and its stamps too. -/
structure Apart (b : Bay) (s t : State) : Prop extends BayKept b s t where
  line : t.lines[b] = s.lines[b]
  mark : t.marks[b] = s.marks[b]

theorem BayKept.trans {b : Bay} {s t u : State} (h : BayKept b s t) (k : BayKept b t u) : BayKept b s u where
  ctx := k.ctx.trans h.ctx
  commit := k.commit.trans h.commit
  pend := k.pend.trans h.pend
  batch := k.batch.trans h.batch
  carry := k.carry.trans h.carry
  held := h.held ∘ k.held
  part := k.part.trans h.part
  pool := k.pool ∘ h.pool
  entry := fun e hother => by
    obtain ⟨hsaved, hother⟩ := h.entry e hother
    obtain ⟨hsaved', hother'⟩ := k.entry e hother
    exact ⟨hsaved'.trans hsaved, hother'⟩

theorem BayKept.refl (b : Bay) (s : State) : BayKept b s s :=
  ⟨rfl, rfl, rfl, rfl, rfl, id, rfl, id, fun _ h => ⟨rfl, h⟩⟩

namespace Apart
variable {b d : Bay} {e : EntryIx} {s t u : State}

theorem trans (h : Apart b s t) (k : Apart b t u) : Apart b s u :=
  ⟨h.toBayKept.trans k.toBayKept, k.line.trans h.line, k.mark.trans h.mark⟩

theorem refl (b : Bay) (s : State) : Apart b s s := ⟨.refl b s, rfl, rfl⟩

/-- Acts on the pool and the registry, and on no line, mark writer or context. -/
theorem of_pool (hctx : t.ctx = s.ctx) (hlines : t.lines = s.lines) (hmarks : t.marks = s.marks)
    (hcommit : t.commits[b] = s.commits[b]) (hpend : t.pool.pend[b] = s.pool.pend[b])
    (hbatch : t.pool.batch[b] = s.pool.batch[b]) (hcarry : t.pool.carry[b] = s.pool.carry[b])
    (hheld : t.registry.heldLookups = s.registry.heldLookups) (hkeeps : Keeps s t)
    (hentry : ∀ e : EntryIx, (∀ c : Bay, c ≠ b → s.ctx[c].owner ≠ some e) →
      t.registry.entries[e].saved = s.registry.entries[e].saved) : Apart b s t where
  ctx := by rw [hctx]
  line := by rw [hlines]
  mark := by rw [hmarks]
  commit := hcommit
  pend := hpend
  batch := hbatch
  carry := hcarry
  held := fun h => by rwa [hheld] at h
  part := hkeeps.part
  pool := hkeeps.pool
  entry := fun e hother => ⟨hentry e hother, by rwa [hctx]⟩

section
variable (h : b ≠ d)
include h

theorem modLine (f : LineUnit → LineUnit) : Apart b s (s.modLine d f) :=
  ⟨⟨rfl, rfl, rfl, rfl, rfl, id, rfl, id, fun _ h => ⟨rfl, h⟩⟩, upd_ne _ _ _ _ h, rfl⟩

theorem modMark (f : MarkWriter → MarkWriter) : Apart b s (s.modMark d f) :=
  ⟨⟨rfl, rfl, rfl, rfl, rfl, id, rfl, id, fun _ h => ⟨rfl, h⟩⟩, rfl, upd_ne _ _ _ _ h⟩

/-- A fold changes the owner's debt. -/
theorem fold (s : State) : Apart b s (fold d s) := by
  obtain ⟨hctx, hlines, hcommits, hmarks, -, -, hbatch⟩ := fold_rest d s
  have hkeeps := keeps_fold s d
  have hheld := fold_heldLookups (b := d) s
  cases howner : s.ctx[d].owner with
  | none =>
    unfold Machine.fold
    rw [howner]
    exact refl b s
  | some f =>
    obtain ⟨-, -, -, -, -, -, hpend, -, hcarry, hentries⟩ :=
      addDebt_rest f (s.pool.pend[d].total + s.pool.carry[d]) (some d) s
    have hpool : (Machine.fold d s).pool.pend[b] = s.pool.pend[b] ∧ (Machine.fold d s).pool.carry[b] = s.pool.carry[b] := by
      rw [fold_of_owner howner, modPool_pool]
      dsimp only
      rw [pendToFree_pend, upd_ne _ _ _ _ h, upd_ne _ _ _ _ h, hpend, pendToFree_carry, hcarry]
      exact ⟨rfl, rfl⟩
    refine of_pool hctx hlines hmarks (by rw [hcommits]) hpool.1 (by rw [hbatch]) hpool.2 hheld hkeeps fun e hother => ?_
    have hne : e ≠ f := fun heq => hother d h.symm (heq ▸ howner)
    rw [fold_of_owner howner, modPool_registry, hentries, upd_ne _ _ _ _ hne]

theorem returnBatch (howner : s.ctx[d].owner = some e) : Apart b s (returnBatch d e s) := by
  obtain ⟨hctx, hlines, hmarks, -, -, hcommits, hpend, hbatch, hcarry, hentries⟩ := returnBatch_rest d e s
  have hheld := returnBatch_heldLookups (b := d) e s
  have hkeeps := keeps_returnBatch s d e
  generalize Machine.returnBatch d e s = t at *
  refine of_pool hctx hlines hmarks ?_ ?_ ?_ ?_ hheld hkeeps fun f hother => ?_
  · rw [hcommits, upd_ne _ _ _ _ h]
  · rw [hpend]
    unfold DebitPool.batchToPend
    dsimp only
    rw [upd_ne _ _ _ _ h]
  · rw [hbatch]
    unfold DebitPool.batchToPend
    dsimp only
    rw [upd_ne _ _ _ _ h]
  · rw [hcarry, upd_ne _ _ _ _ h]
  · have hne : f ≠ e := fun heq => hother d h.symm (heq ▸ howner)
    rw [hentries, upd_ne _ _ _ _ hne]

theorem releaseBay (s : State) : Apart b s (releaseBay d s) := by
  rw [releaseBay_eq]
  refine ⟨⟨upd_ne _ _ _ _ h, upd_ne _ _ _ _ h, rfl, rfl, rfl, fun hmem => List.mem_of_mem_filter hmem, rfl, id,
    fun e hother => ⟨rfl, fun c hc => ?_⟩⟩, upd_ne _ _ _ _ h, upd_ne _ _ _ _ h⟩
  by_cases hcd : c = d
  · subst hcd
    dsimp only
    rw [upd_self]
    nofun
  · dsimp only
    rw [upd_ne _ _ _ _ hcd]
    exact hother c hc

theorem drainBay (s : State) : Apart b s (drainBay d s) := by
  unfold Machine.drainBay
  split
  · exact releaseBay h s
  · exact refl b s

theorem withdrawCommit (s : State) : Apart b s (withdrawCommit d s) := by
  unfold Machine.withdrawCommit
  split
  · have hline := modLine (s := s) h fun u => { u with waiting := { u.waiting with commit := none } }
    refine hline.trans ?_
    generalize s.modLine d _ = t
    unfold commitOutcome
    split
    · exact refl b t
    · next e howner =>
      dsimp only
      rw [commitWithdrawn]
      refine (returnBatch h howner).trans ?_
      unfold refold
      split
      · exact fold h _
      · exact refl b _
  · exact refl b s

theorem withdrawMark (s : State) : Apart b s (withdrawMark d s) := by
  unfold Machine.withdrawMark
  dsimp only
  refine Apart.trans ?_ (modMark h _)
  split
  · exact (modLine h _).trans (modMark h _)
  · exact refl b s

theorem withdrawLink (s : State) : Apart b s (withdrawLink d s) := by
  unfold Machine.withdrawLink
  split
  · have hline := modLine (s := s) h LineUnit.withdrawLink
    refine hline.trans ?_
    generalize s.modLine d _ = t
    unfold answerOutcome respond
    split
    · split
      · exact ⟨⟨rfl, rfl, rfl, rfl, rfl, id, rfl, id, fun _ h => ⟨rfl, h⟩⟩, rfl, rfl⟩
      · exact refl b t
    · exact refl b t
  · exact refl b s

end

/-- The bay's own turn among the others of an act. -/
theorem turn {f : Bay → State → State} (hother : ∀ d t, b ≠ d → Apart b t (f d t)) (s : State) :
    ∃ t, Apart b s t ∧ Apart b (f b t) (forBays f s) :=
  forBays_turn (refl b) (fun _ _ _ => trans) (fun d t hd => hother d t hd.symm) s

end Apart

end Sys2Proof.Machine
end

section
/-! SUPPORT. What a bay's own turns of the entry to DRAIN do (R77, R79, R97, R101, R136, R153). -/

namespace Sys2Proof.Machine

section
variable {b : Bay} {e : EntryIx} {s t : State}

/-! ### A fold and a withdrawn commit -/

theorem fold_empties (howner : s.ctx[b].owner ≠ none) :
    (fold b s).pool.pend[b] = Queue.empty ∧ (fold b s).pool.carry[b] = 0 := by
  obtain ⟨e, he⟩ := Option.ne_none_iff_exists'.mp howner
  rw [fold_of_owner he, modPool_pool]
  dsimp only
  rw [pendToFree_pend, upd_self, upd_self]
  exact ⟨rfl, rfl⟩

theorem fold_saved (howner : s.ctx[b].owner = some e)
    (hle : s.registry.entries[e].saved.debt + (s.pool.pend[b].total + s.pool.carry[b]) ≤ Config.volumeMax) :
    (fold b s).registry.entries[e].saved = { s.registry.entries[e].saved with
      debt := s.registry.entries[e].saved.debt + (s.pool.pend[b].total + s.pool.carry[b]) } := by
  rw [fold_of_le howner hle, modPool_registry, modEntry_registry]
  dsimp only
  rw [upd_self]

theorem fold_lines : (fold b s).lines = s.lines := by
  obtain ⟨-, hlines, -⟩ := fold_rest b s
  exact hlines

theorem fold_commits : (fold b s).commits = s.commits := by
  obtain ⟨-, -, hcommits, -⟩ := fold_rest b s
  exact hcommits

theorem fold_marks : (fold b s).marks = s.marks := by
  obtain ⟨-, -, -, hmarks, -⟩ := fold_rest b s
  exact hmarks

theorem fold_link : (fold b s).link = s.link := by
  obtain ⟨-, -, -, -, -, hlink, -⟩ := fold_rest b s
  exact hlink

theorem fold_poolBatch : (fold b s).pool.batch = s.pool.batch := by
  obtain ⟨-, -, -, -, -, -, hbatch⟩ := fold_rest b s
  exact hbatch

/-- A withdrawn commit in DRAIN: its batch is in PENDING and folded. -/
theorem commitWithdrawn_of_drain (hdrain : s.part = .drain) :
    commitWithdrawn b e s = fold b (returnBatch b e s) := by
  have hpart : (returnBatch b e s).part = .drain := (keeps_returnBatch s b e).part.trans hdrain
  rw [commitWithdrawn, refold, if_pos hpart]

theorem commitWithdrawn_saved (hdrain : s.part = .drain) (hpool : s.pool.Partitioned) (howner : s.ctx[b].owner = some e)
    (hle : s.registry.entries[e].saved.debt + (s.pool.pend[b].total + s.pool.carry[b]) +
      (s.pool.batch[b].total + s.commits[b].batchCarry) ≤ Config.volumeMax) :
    (commitWithdrawn b e s).registry.entries[e].saved = { s.registry.entries[e].saved with
      debt := s.registry.entries[e].saved.debt + (s.pool.pend[b].total + s.pool.carry[b]) +
        (s.pool.batch[b].total + s.commits[b].batchCarry)
      residue := s.registry.entries[e].saved.residue + s.commits[b].batchResidue } := by
  obtain ⟨hctx, -, -, -, -, -, hpend, -, hcarry, hentries⟩ := returnBatch_rest b e s
  have htotal := (batchToPend_sums (b := b) hpool).1
  rw [commitWithdrawn_of_drain hdrain]
  generalize returnBatch b e s = t at *
  have hpend : t.pool.pend[b].total = s.pool.pend[b].total + s.pool.batch[b].total := by rw [hpend, htotal]
  have hcarry : t.pool.carry[b] = s.pool.carry[b] + s.commits[b].batchCarry := by
    rw [hcarry, upd_self]
    exact Nat.min_eq_left (by omega)
  have hentry : t.registry.entries[e].saved = { s.registry.entries[e].saved with
      residue := s.registry.entries[e].saved.residue + s.commits[b].batchResidue } := by
    rw [hentries, upd_self]
  have hdebt : t.registry.entries[e].saved.debt = s.registry.entries[e].saved.debt := by rw [hentry]
  have hsum : t.registry.entries[e].saved.debt + (t.pool.pend[b].total + t.pool.carry[b]) =
      s.registry.entries[e].saved.debt + (s.pool.pend[b].total + s.pool.carry[b]) +
        (s.pool.batch[b].total + s.commits[b].batchCarry) := by omega
  rw [fold_saved (by rwa [hctx]) (hsum ▸ hle), hsum, hentry]

/-! ### The own turns -/

/-- The unit once its waiting commit claim is withdrawn (R79). -/
def LineUnit.withdrawCommit (u : LineUnit) : LineUnit := { u with waiting := { u.waiting with commit := none } }

/-- The unit once its waiting mark claim is withdrawn (R136). -/
def LineUnit.withdrawMark (u : LineUnit) : LineUnit := { u with waiting := { u.waiting with mark := none } }

/-- What the withdrawal of a bay's commit claim in DRAIN does to the bay. -/
structure CommitTaken (b : Bay) (s t : State) : Prop where
  ctx : t.ctx = s.ctx
  line : t.lines[b] = s.lines[b].withdrawCommit
  held : t.registry.heldLookups = s.registry.heldLookups
  keeps : Keeps s t
  runsOn : s.lines[b].waiting.commit = none → t = s
  settled : s.lines[b].waiting.commit ≠ none → s.ctx[b].owner ≠ none →
    t.commits[b] = s.commits[b].settle ∧ t.pool.batch[b] = Queue.empty
  folded : s.lines[b].waiting.commit ≠ none → s.ctx[b].owner ≠ none →
    t.pool.pend[b] = Queue.empty ∧ t.pool.carry[b] = 0
  saved : s.lines[b].waiting.commit ≠ none → s.pool.Partitioned → ∀ e : EntryIx, s.ctx[b].owner = some e →
    s.registry.entries[e].saved.debt + (s.pool.pend[b].total + s.pool.carry[b]) +
      (s.pool.batch[b].total + s.commits[b].batchCarry) ≤ Config.volumeMax →
    t.registry.entries[e].saved = { s.registry.entries[e].saved with
      debt := s.registry.entries[e].saved.debt + (s.pool.pend[b].total + s.pool.carry[b]) +
        (s.pool.batch[b].total + s.commits[b].batchCarry)
      residue := s.registry.entries[e].saved.residue + s.commits[b].batchResidue }

theorem withdrawCommit_kept (h : s.lines[b].waiting.commit = none) : withdrawCommit b s = s := by
  unfold withdrawCommit
  rw [h]

theorem withdrawCommit_taken (h : s.lines[b].waiting.commit ≠ none) :
    withdrawCommit b s = commitOutcome b .withdrawn (s.modLine b LineUnit.withdrawCommit) := by
  obtain ⟨c, hc⟩ := Option.ne_none_iff_exists'.mp h
  unfold withdrawCommit
  rw [hc]
  rfl

theorem commitOutcome_withdrawn (howner : s.ctx[b].owner = some e) :
    commitOutcome b .withdrawn s = commitWithdrawn b e s := by
  unfold commitOutcome
  rw [howner]

theorem commitOutcome_nobody (hnone : s.ctx[b].owner = none) (o : LineOutcome) : commitOutcome b o s = s := by
  unfold commitOutcome
  rw [hnone]

theorem commitWithdrawn_rest (hdrain : s.part = .drain) :
    (commitWithdrawn b e s).ctx = s.ctx ∧ (commitWithdrawn b e s).lines = s.lines ∧
      (commitWithdrawn b e s).registry.heldLookups = s.registry.heldLookups ∧
      (commitWithdrawn b e s).commits = upd s.commits b CommitContext.settle ∧
      (commitWithdrawn b e s).pool.batch = upd s.pool.batch b (fun _ => Queue.empty) ∧
      (commitWithdrawn b e s).link = s.link := by
  obtain ⟨hctx, hlines, -, -, hlink, hcommits, -, hbatch, -⟩ := returnBatch_rest b e s
  rw [commitWithdrawn_of_drain hdrain, fold_heldLookups, returnBatch_heldLookups, fold_ctx, fold_lines, fold_commits,
    fold_poolBatch, fold_link, hctx, hlines, hcommits, hbatch, hlink, batchToPend_batch]
  exact ⟨rfl, rfl, rfl, rfl, rfl, rfl⟩

theorem withdrawCommit_own (hdrain : s.part = .drain) : CommitTaken b s (withdrawCommit b s) := by
  by_cases hcommit : s.lines[b].waiting.commit = none
  · rw [withdrawCommit_kept hcommit]
    refine ⟨rfl, ?_, rfl, .refl s, fun _ => rfl, fun h => absurd hcommit h, fun h => absurd hcommit h,
      fun h => absurd hcommit h⟩
    rw [LineUnit.withdrawCommit, ← hcommit]
  have hkeeps := keeps_withdrawCommit s b
  rw [withdrawCommit_taken hcommit] at hkeeps ⊢
  have hline : (s.modLine b LineUnit.withdrawCommit).lines[b] = s.lines[b].withdrawCommit := by
    rw [modLine_lines, upd_self]
  cases howner : s.ctx[b].owner with
  | none =>
    rw [commitOutcome_nobody (by rwa [modLine_ctx])] at hkeeps ⊢
    exact ⟨rfl, hline, rfl, hkeeps, fun h => absurd h hcommit, fun _ h => absurd howner h, fun _ h => absurd howner h,
      fun _ _ e he => absurd (he.symm.trans howner) (by nofun)⟩
  | some e =>
    rw [commitOutcome_withdrawn (e := e) (by rwa [modLine_ctx])] at hkeeps ⊢
    have hdrain' : (s.modLine b LineUnit.withdrawCommit).part = .drain := hdrain
    obtain ⟨hctx, hlines, hheld, hcommits, hbatch, -⟩ := commitWithdrawn_rest (b := b) (e := e) hdrain'
    have hfolded := fold_empties (b := b) (s := returnBatch b e (s.modLine b LineUnit.withdrawCommit))
      (by rw [(returnBatch_rest b e _).1, modLine_ctx, howner]; nofun)
    rw [← commitWithdrawn_of_drain hdrain'] at hfolded
    have hsaved := fun hpool => commitWithdrawn_saved (b := b) (e := e) hdrain' hpool howner
    generalize commitWithdrawn b e (s.modLine b LineUnit.withdrawCommit) = t at *
    refine ⟨hctx, by rw [hlines, hline], hheld, hkeeps, fun h => absurd h hcommit, fun _ _ => ⟨?_, ?_⟩,
      fun _ _ => hfolded, fun _ hpool f hf => ?_⟩
    · rw [hcommits, upd_self, modLine_commits]
    · rw [hbatch, upd_self]
    · cases howner.symm.trans hf
      exact hsaved hpool

theorem withdrawMark_own : BayKept b s (withdrawMark b s) ∧ (withdrawMark b s).lines[b] = s.lines[b].withdrawMark ∧
    (withdrawMark b s).marks[b].list = [] := by
  unfold withdrawMark
  dsimp only
  split
  · refine ⟨⟨rfl, rfl, rfl, rfl, rfl, id, rfl, id, fun _ h => ⟨rfl, h⟩⟩, ?_, ?_⟩
    · exact upd_self ..
    · rw [modMark_marks, upd_self]
  · next hnone =>
    refine ⟨⟨rfl, rfl, rfl, rfl, rfl, id, rfl, id, fun _ h => ⟨rfl, h⟩⟩, ?_, ?_⟩
    · rw [modMark_lines, LineUnit.withdrawMark, ← hnone]
    · rw [modMark_marks, upd_self]

theorem respond_kept (st : LinkStatus) (d : List Byte) (t : State) :
    BayKept b t (respond st d t) ∧ (respond st d t).lines = t.lines ∧ (respond st d t).marks = t.marks := by
  unfold respond
  split
  · split
    · exact ⟨⟨rfl, rfl, rfl, rfl, rfl, id, rfl, id, fun _ h => ⟨rfl, h⟩⟩, rfl, rfl⟩
    · exact ⟨.refl b t, rfl, rfl⟩
  · exact ⟨.refl b t, rfl, rfl⟩

theorem withdrawLink_own : BayKept b s (withdrawLink b s) ∧ (withdrawLink b s).lines[b] = s.lines[b].withdrawLink ∧
    (withdrawLink b s).marks = s.marks := by
  unfold withdrawLink
  split
  · unfold answerOutcome
    obtain ⟨hkept, hlines, hmarks⟩ := respond_kept (b := b) LineOutcome.withdrawn.status LineOutcome.withdrawn.data
      (s.modLine b LineUnit.withdrawLink)
    refine ⟨BayKept.trans ?_ hkept, ?_, hmarks⟩
    · exact ⟨rfl, rfl, rfl, rfl, rfl, id, rfl, id, fun _ h => ⟨rfl, h⟩⟩
    · rw [hlines, modLine_lines, upd_self]
  · next hnone =>
    refine ⟨.refl b s, ?_, rfl⟩
    rw [LineUnit.withdrawLink, ← hnone]

end

end Sys2Proof.Machine
end

section
/-! SUPPORT. What the entry to DRAIN leaves of one bay (R27, R77, R79, R97, R101, R172). -/

namespace Sys2Proof.Machine

/-- A bay once the claims of a DRAIN entry are withdrawn and the pool is folded. -/
structure BayDrained (b : Bay) (s t : State) : Prop where
  ctx : t.ctx[b] = s.ctx[b]
  line : t.lines[b] = s.lines[b].withdrawCommit.withdrawMark.withdrawLink
  list : t.marks[b].list = []
  held : b ∈ t.registry.heldLookups → b ∈ s.registry.heldLookups
  folded : s.ctx[b].owner ≠ none → t.pool.pend[b] = Queue.empty ∧ t.pool.carry[b] = 0
  runsOn : s.lines[b].waiting.commit = none → t.commits[b] = s.commits[b]
  settled : s.lines[b].waiting.commit ≠ none → s.ctx[b].owner ≠ none →
    t.commits[b] = s.commits[b].settle ∧ t.pool.batch[b] = Queue.empty
  charged : s.lines[b].waiting.commit = none → ∀ e : EntryIx, s.ctx[b].owner = some e →
    (∀ c : Bay, c ≠ b → s.ctx[c].owner ≠ some e) →
    s.registry.entries[e].saved.debt + (s.pool.pend[b].total + s.pool.carry[b]) ≤ Config.volumeMax →
    t.registry.entries[e].saved = { s.registry.entries[e].saved with
      debt := s.registry.entries[e].saved.debt + (s.pool.pend[b].total + s.pool.carry[b]) }
  returned : s.lines[b].waiting.commit ≠ none → s.pool.Partitioned → ∀ e : EntryIx, s.ctx[b].owner = some e →
    (∀ c : Bay, c ≠ b → s.ctx[c].owner ≠ some e) →
    s.registry.entries[e].saved.debt + (s.pool.pend[b].total + s.pool.carry[b]) +
      (s.pool.batch[b].total + s.commits[b].batchCarry) ≤ Config.volumeMax →
    t.registry.entries[e].saved = { s.registry.entries[e].saved with
      debt := s.registry.entries[e].saved.debt + (s.pool.pend[b].total + s.pool.carry[b]) +
        (s.pool.batch[b].total + s.commits[b].batchCarry)
      residue := s.registry.entries[e].saved.residue + s.commits[b].batchResidue }

section
variable {b : Bay} {s t u : State}

/-- The pieces of the entry to DRAIN that settle the bays' claims and fold the pool. -/
def claimsSettled (s : State) : State :=
  forBays fold (forBays withdrawLink (forBays withdrawMark (forBays withdrawCommit s)))

/-- The bay's commit turn, and its fold, with what leaves its debt between them. -/
structure BayTurns (b : Bay) (s u v w t : State) : Prop where
  before : Apart b s u
  taken : CommitTaken b u v
  between : BayKept b v w
  line : w.lines[b] = v.lines[b].withdrawMark.withdrawLink
  list : w.marks[b].list = []
  after : Apart b (fold b w) t

theorem bayTurns (hdrain : s.part = .drain) : ∃ u v w, BayTurns b s u v w (claimsSettled s) := by
  obtain ⟨u1, h1, k1⟩ := Apart.turn (b := b) (f := withdrawCommit) (fun _ t hd => Apart.withdrawCommit hd t) s
  obtain ⟨u2, h2, k2⟩ := Apart.turn (b := b) (f := withdrawMark) (fun _ t hd => Apart.withdrawMark hd t)
    (forBays withdrawCommit s)
  obtain ⟨u3, h3, k3⟩ := Apart.turn (b := b) (f := withdrawLink) (fun _ t hd => Apart.withdrawLink hd t)
    (forBays withdrawMark (forBays withdrawCommit s))
  obtain ⟨u4, h4, k4⟩ := Apart.turn (b := b) (f := fold) (fun _ t hd => Apart.fold hd t)
    (forBays withdrawLink (forBays withdrawMark (forBays withdrawCommit s)))
  obtain ⟨hmark, hmarkLine, hlist⟩ := withdrawMark_own (b := b) (s := u2)
  obtain ⟨hlink, hlinkLine, hlinkMarks⟩ := withdrawLink_own (b := b) (s := u3)
  refine ⟨u1, withdrawCommit b u1, u4, h1, withdrawCommit_own (h1.part.trans hdrain), ?_, ?_, ?_, k4⟩
  · exact (k1.trans h2).toBayKept.trans (hmark.trans ((k2.trans h3).toBayKept.trans (hlink.trans (k3.trans h4).toBayKept)))
  · rw [h4.line, k3.line, hlinkLine, h3.line, k2.line, hmarkLine, h2.line, k1.line]
  · rw [h4.mark, k3.mark, hlinkMarks, h3.mark, k2.mark, hlist]

namespace BayTurns
variable {v w : State} (h : BayTurns b s u v w t)
include h

theorem owner : v.ctx[b].owner = s.ctx[b].owner ∧ w.ctx[b].owner = s.ctx[b].owner := by
  rw [h.between.ctx, h.taken.ctx, h.before.ctx]
  exact ⟨rfl, rfl⟩

/-- The saved fields of an entry that no other bay owns, from turn to turn. -/
theorem saved {e : EntryIx} (hother : ∀ c : Bay, c ≠ b → s.ctx[c].owner ≠ some e) :
    u.registry.entries[e].saved = s.registry.entries[e].saved ∧
      w.registry.entries[e].saved = v.registry.entries[e].saved ∧
      t.registry.entries[e].saved = (fold b w).registry.entries[e].saved := by
  obtain ⟨hbefore, hother⟩ := h.before.entry e hother
  rw [← h.taken.ctx] at hother
  obtain ⟨hbetween, hother⟩ := h.between.entry e hother
  rw [← fold_ctx b w] at hother
  exact ⟨hbefore, hbetween, (h.after.entry e hother).1⟩

/-- A commit that runs on: the bay's debt is as it was when its fold comes. -/
theorem charged (hnone : s.lines[b].waiting.commit = none) (e : EntryIx) (howner : s.ctx[b].owner = some e)
    (hother : ∀ c : Bay, c ≠ b → s.ctx[c].owner ≠ some e)
    (hle : s.registry.entries[e].saved.debt + (s.pool.pend[b].total + s.pool.carry[b]) ≤ Config.volumeMax) :
    t.registry.entries[e].saved = { s.registry.entries[e].saved with
      debt := s.registry.entries[e].saved.debt + (s.pool.pend[b].total + s.pool.carry[b]) } := by
  obtain ⟨hbefore, hbetween, hafter⟩ := h.saved hother
  have hkept : v = u := h.taken.runsOn (by rwa [h.before.line])
  subst hkept
  have hsaved := hbetween.trans hbefore
  have hpend : w.pool.pend[b] = s.pool.pend[b] := h.between.pend.trans h.before.pend
  have hcarry : w.pool.carry[b] = s.pool.carry[b] := h.between.carry.trans h.before.carry
  rw [hafter, fold_saved (h.owner.2.trans howner) (by rwa [hsaved, hpend, hcarry]), hsaved, hpend, hcarry]

/-- A withdrawn commit: its turn has folded all of the bay's debt, and the last fold finds none. -/
theorem returned (hcommit : s.lines[b].waiting.commit ≠ none) (hpool : s.pool.Partitioned) (e : EntryIx)
    (howner : s.ctx[b].owner = some e) (hother : ∀ c : Bay, c ≠ b → s.ctx[c].owner ≠ some e)
    (hle : s.registry.entries[e].saved.debt + (s.pool.pend[b].total + s.pool.carry[b]) +
      (s.pool.batch[b].total + s.commits[b].batchCarry) ≤ Config.volumeMax) :
    t.registry.entries[e].saved = { s.registry.entries[e].saved with
      debt := s.registry.entries[e].saved.debt + (s.pool.pend[b].total + s.pool.carry[b]) +
        (s.pool.batch[b].total + s.commits[b].batchCarry)
      residue := s.registry.entries[e].saved.residue + s.commits[b].batchResidue } := by
  obtain ⟨hbefore, hbetween, hafter⟩ := h.saved hother
  have hcommit' : u.lines[b].waiting.commit ≠ none := by rwa [h.before.line]
  have howner' : u.ctx[b].owner = some e := by rwa [h.before.ctx]
  have htaken := h.taken.saved hcommit' (h.before.pool hpool) e howner'
  obtain ⟨hpend, hcarry⟩ := h.taken.folded hcommit' (by rw [howner']; nofun)
  rw [hbefore, h.before.pend, h.before.carry, h.before.batch, h.before.commit] at htaken
  have hsaved := hbetween.trans (htaken hle)
  have hnothing : w.pool.pend[b].total + w.pool.carry[b] = 0 := by
    rw [h.between.pend, h.between.carry, hpend, hcarry]
    rfl
  have hdebt : w.registry.entries[e].saved.debt + (w.pool.pend[b].total + w.pool.carry[b]) ≤ Config.volumeMax := by
    rw [hnothing, hsaved]
    exact hle
  rw [hafter, fold_saved (h.owner.2.trans howner) hdebt, hnothing, hsaved]
  rfl

theorem drained : BayDrained b s t where
  ctx := by rw [h.after.ctx, fold_ctx, h.between.ctx, h.taken.ctx, h.before.ctx]
  line := by rw [h.after.line, fold_lines, h.line, h.taken.line, h.before.line]
  list := by rw [h.after.mark, fold_marks, h.list]
  held := fun hmem => by
    have := h.between.held ((fold_heldLookups (b := b) w) ▸ h.after.held hmem)
    exact h.before.held (h.taken.held ▸ this)
  folded := fun howner => by
    rw [h.after.pend, h.after.carry]
    exact fold_empties (by rwa [h.owner.2])
  runsOn := fun hnone => by
    rw [h.after.commit, fold_commits, h.between.commit, h.taken.runsOn (by rwa [h.before.line]), h.before.commit]
  settled := fun hcommit howner => by
    rw [h.after.commit, h.after.batch, fold_commits, fold_poolBatch, h.between.commit, h.between.batch,
      ← h.before.commit]
    exact h.taken.settled (by rwa [h.before.line]) (by rwa [h.before.ctx])
  charged := h.charged
  returned := h.returned

end BayTurns

theorem bayDrained_claimsSettled (b : Bay) (hdrain : s.part = .drain) : BayDrained b s (claimsSettled s) := by
  obtain ⟨u, v, w, h⟩ := bayTurns (b := b) hdrain
  exact h.drained

end

end Sys2Proof.Machine
end

section
/-! SUPPORT. The stages of the entry to DRAIN that are not a bay's own: the bays in admission, the link port, the registry's
marks, and what closes the act (R20, R27, R57, R101, R115, R118, R172). -/

namespace Sys2Proof.Machine

section
variable {b : Bay} {s t : State}

/-! ### The bays in admission (R27) -/

theorem drainBay_kept (h : s.ctx[b].state.inAdmission = false) : drainBay b s = s :=
  if_neg (ne_true_of_eq_false h)

theorem drainBay_released (h : s.ctx[b].state.inAdmission = true) : drainBay b s = releaseBay b s := if_pos h

theorem forBays_drainBay_kept (h : s.ctx[b].state.inAdmission = false) : Apart b s (forBays drainBay s) := by
  obtain ⟨u, hbefore, hafter⟩ := Apart.turn (b := b) (f := drainBay) (fun _ t hd => Apart.drainBay hd t) s
  rw [drainBay_kept (by rwa [hbefore.ctx])] at hafter
  exact hbefore.trans hafter

theorem forBays_drainBay_released (h : s.ctx[b].state.inAdmission = true) :
    (forBays drainBay s).ctx[b] = BayContext.reset ∧ (forBays drainBay s).lines[b] = s.lines[b].abandon ∧
      (forBays drainBay s).commits[b] = { s.commits[b] with lowPosted := false } ∧
      b ∉ (forBays drainBay s).registry.heldLookups := by
  obtain ⟨u, hbefore, hafter⟩ := Apart.turn (b := b) (f := drainBay) (fun _ t hd => Apart.drainBay hd t) s
  rw [drainBay_released (by rwa [hbefore.ctx]), releaseBay_eq] at hafter
  refine ⟨?_, ?_, ?_, fun hmem => ?_⟩
  · exact hafter.ctx.trans (upd_self ..)
  · rw [← hbefore.line]
    exact hafter.line.trans (upd_self ..)
  · rw [← hbefore.commit]
    exact hafter.commit.trans (upd_self ..)
  · have hreleased : b ∈ u.registry.heldLookups.filter (· != b) := hafter.held hmem
    simp at hreleased

theorem drainBay_link : (drainBay b s).link = s.link := by
  unfold drainBay
  split
  · rw [releaseBay_eq]
  · rfl

/-! ### The link port (R57, R101) -/

/-- The link port once an open transaction, if there is one, is answered NOT_READY. -/
def LinkPort.declined (p : LinkPort) : LinkPort :=
  match p.outstanding with
  | some x =>
    if x.response = none then
      { p with
        state := .responding
        outstanding := some { x with waitsOrphan := false, response := some { status := .notReady, data := [] } } }
    else p
  | none => p

theorem LinkPort.declined_of_open {p : LinkPort} {x : LinkTransaction} (hx : p.outstanding = some x)
    (hopen : x.response = none) : p.declined = { p with
      state := .responding
      outstanding := some { x with waitsOrphan := false, response := some { status := .notReady, data := [] } } } := by
  unfold LinkPort.declined
  rw [hx]
  exact if_pos hopen

theorem LinkPort.declined_of_answered {p : LinkPort}
    (h : ∀ x : LinkTransaction, p.outstanding = some x → x.response ≠ none) : p.declined = p := by
  unfold LinkPort.declined
  split
  · next x hx => exact if_neg (h x hx)
  · rfl

theorem respond_notReady_link : (respond .notReady [] s).link = s.link.declined := by
  by_cases hopen : ∃ x, s.link.outstanding = some x ∧ x.response = none
  · obtain ⟨x, hx, hnone⟩ := hopen
    rw [respond_of_open _ _ hx hnone, LinkPort.declined_of_open hx hnone]
  · have hanswered : ∀ x, s.link.outstanding = some x → x.response ≠ none := fun x hx hnone => hopen ⟨x, hx, hnone⟩
    rw [respond_of_answered _ _ hanswered, LinkPort.declined_of_answered hanswered]

theorem LinkPort.declined_declined (p : LinkPort) : p.declined.declined = p.declined := by
  refine declined_of_answered fun y hy => ?_
  by_cases hopen : ∃ x, p.outstanding = some x ∧ x.response = none
  · obtain ⟨x, hx, hnone⟩ := hopen
    rw [declined_of_open hx hnone] at hy
    cases hy
    nofun
  · have hanswered : ∀ x, p.outstanding = some x → x.response ≠ none := fun x hx hnone => hopen ⟨x, hx, hnone⟩
    rw [declined_of_answered hanswered] at hy
    exact hanswered y hy

theorem withdrawLink_kept (h : s.lines[b].waiting.link = none) : withdrawLink b s = s := by
  unfold withdrawLink
  rw [h]

theorem withdrawLink_declines (h : s.lines[b].waiting.link ≠ none) : (withdrawLink b s).link = s.link.declined := by
  obtain ⟨c, hc⟩ := Option.ne_none_iff_exists'.mp h
  unfold withdrawLink
  rw [hc]
  exact respond_notReady_link

/-- The link port stands as it was, or its open transaction is answered NOT_READY. -/
def DeclinedOrKept (s t : State) : Prop := t.link = s.link ∨ t.link = s.link.declined

theorem DeclinedOrKept.trans {u : State} (h : DeclinedOrKept s t) (k : DeclinedOrKept t u) : DeclinedOrKept s u := by
  unfold DeclinedOrKept at *
  obtain h | h := h
  · rwa [h] at k
  · rw [h, LinkPort.declined_declined, or_self] at k
    exact .inr k

theorem withdrawLink_declinedOrKept : DeclinedOrKept s (withdrawLink b s) := by
  by_cases h : s.lines[b].waiting.link = none
  · exact .inl (congrArg State.link (withdrawLink_kept h))
  · exact .inr (withdrawLink_declines h)

theorem forBays_withdrawLink_kept (h : ∀ b : Bay, s.lines[b].waiting.link = none) : forBays withdrawLink s = s :=
  forBays_same fun b => withdrawLink_kept (h b)

theorem forBays_withdrawLink_declinedOrKept : DeclinedOrKept s (forBays withdrawLink s) :=
  forBays_preserves (P := DeclinedOrKept s) (.inl rfl) fun _ _ h => h.trans withdrawLink_declinedOrKept

theorem forBays_withdrawLink_declines (h : s.lines[b].waiting.link ≠ none) :
    (forBays withdrawLink s).link = s.link.declined := by
  obtain ⟨u, ⟨hbefore, hline⟩, hafter, -⟩ := forBays_turn (b := b) (f := withdrawLink)
    (R := fun t u => DeclinedOrKept t u ∧ u.lines[b] = t.lines[b]) (fun t => ⟨.inl rfl, rfl⟩)
    (fun t u v h k => ⟨h.1.trans k.1, k.2.trans h.2⟩)
    (fun d t hd => ⟨withdrawLink_declinedOrKept, (Apart.withdrawLink (Ne.symm hd) t).line⟩) s
  have hown := withdrawLink_declines (b := b) (s := u) (by rwa [hline])
  have hdeclined : u.link.declined = s.link.declined := by
    obtain hu | hu := hbefore <;> rw [hu]
    exact LinkPort.declined_declined _
  rw [hdeclined] at hown
  obtain hkept | hkept := hafter
  · exact hkept.trans hown
  · rw [hkept, hown, LinkPort.declined_declined]

end

end Sys2Proof.Machine
end

section
/-! SUPPORT. The link port over the whole entry to DRAIN; the close of the act while SUPPLY_FAIL is asserted; a swath end in
DRAIN (R20, R52, R53, R57, R101, R115, R118, R128, R172). -/

namespace Sys2Proof.Machine

section
variable {b : Bay} {e : EntryIx} {s t : State}

/-! ### The link port, from the claims' withdrawal to the waiting transaction -/

theorem withdrawCommit_link (hdrain : s.part = .drain) : (withdrawCommit b s).link = s.link := by
  by_cases hcommit : s.lines[b].waiting.commit = none
  · rw [withdrawCommit_kept hcommit]
  · rw [withdrawCommit_taken hcommit]
    cases howner : s.ctx[b].owner with
    | none =>
      rw [commitOutcome_nobody (by rwa [modLine_ctx])]
      rfl
    | some e =>
      rw [commitOutcome_withdrawn (e := e) (by rwa [modLine_ctx])]
      obtain ⟨-, -, -, -, -, hlink⟩ :=
        commitWithdrawn_rest (b := b) (e := e) (s := s.modLine b LineUnit.withdrawCommit) hdrain
      exact hlink

theorem withdrawMark_link : (withdrawMark b s).link = s.link := by
  unfold withdrawMark
  dsimp only
  split <;> rfl

/-- The withdrawal of the commit and mark claims leaves the link port, and leaves the bays' link claims waiting. -/
theorem claims_link (hdrain : s.part = .drain) :
    (forBays withdrawMark (forBays withdrawCommit s)).link = s.link ∧
      ∀ b : Bay, (forBays withdrawMark (forBays withdrawCommit s)).lines[b].waiting.link = s.lines[b].waiting.link := by
  have hcommits : (forBays withdrawCommit s).part = .drain ∧ (forBays withdrawCommit s).link = s.link :=
    forBays_preserves (P := fun t => t.part = .drain ∧ t.link = s.link) ⟨hdrain, rfl⟩ fun b t ⟨hpart, hlink⟩ =>
      ⟨(keeps_withdrawCommit t b).part.trans hpart, (withdrawCommit_link hpart).trans hlink⟩
  refine ⟨forBays_preserves (P := fun t => t.link = s.link) hcommits.2 fun b t ht => withdrawMark_link.trans ht,
    fun b => ?_⟩
  obtain ⟨u1, h1, k1⟩ := Apart.turn (b := b) (f := withdrawCommit) (fun _ t hd => Apart.withdrawCommit hd t) s
  obtain ⟨u2, h2, k2⟩ := Apart.turn (b := b) (f := withdrawMark) (fun _ t hd => Apart.withdrawMark hd t)
    (forBays withdrawCommit s)
  obtain ⟨-, hmark, -⟩ := withdrawMark_own (b := b) (s := u2)
  rw [k2.line, hmark, h2.line, k1.line, (withdrawCommit_own (h1.part.trans hdrain)).line, h1.line]
  rfl

theorem forBays_fold_link : (forBays fold s).link = s.link := by
  refine forBays_preserves (P := fun t => t.link = s.link) rfl fun b t ht => ?_
  rw [fold_link, ht]

theorem claimsSettled_link_eq :
    (claimsSettled s).link = (forBays withdrawLink (forBays withdrawMark (forBays withdrawCommit s))).link :=
  forBays_fold_link

theorem claimsSettled_link_kept (hdrain : s.part = .drain) (h : ∀ b : Bay, s.lines[b].waiting.link = none) :
    (claimsSettled s).link = s.link := by
  obtain ⟨hlink, hwaiting⟩ := claims_link hdrain
  rw [claimsSettled_link_eq]
  generalize forBays withdrawMark (forBays withdrawCommit s) = t at hlink hwaiting ⊢
  rw [forBays_withdrawLink_kept fun b => (hwaiting b).trans (h b), hlink]

theorem claimsSettled_link_declined (hdrain : s.part = .drain) (h : s.lines[b].waiting.link ≠ none) :
    (claimsSettled s).link = s.link.declined := by
  obtain ⟨hlink, hwaiting⟩ := claims_link hdrain
  rw [claimsSettled_link_eq]
  generalize forBays withdrawMark (forBays withdrawCommit s) = t at hlink hwaiting ⊢
  rw [forBays_withdrawLink_declines (b := b) (by rwa [hwaiting]), hlink]

theorem claimsSettled_declinedOrKept (hdrain : s.part = .drain) : DeclinedOrKept s (claimsSettled s) := by
  have h := forBays_withdrawLink_declinedOrKept (s := forBays withdrawMark (forBays withdrawCommit s))
  unfold DeclinedOrKept at *
  rwa [claimsSettled_link_eq, ← (claims_link hdrain).1]

theorem linkDrainWaiting_link_declined {x : LinkTransaction} (hx : s.link.outstanding = some x)
    (hwaits : x.waitsOrphan = true) : (linkDrainWaiting s).link = s.link.declined := by
  unfold linkDrainWaiting
  rw [hx]
  dsimp only
  rw [if_pos hwaits]
  exact respond_notReady_link

theorem linkDrainWaiting_kept (h : ∀ x : LinkTransaction, s.link.outstanding = some x → x.waitsOrphan = false) :
    linkDrainWaiting s = s := by
  unfold linkDrainWaiting
  split
  · next x hx => exact if_neg (by simp [h x hx])
  · rfl

/-- A transaction that waits for an orphan, or whose claim was withdrawn, is answered NOT_READY. -/
theorem drained_link_declined {x : LinkTransaction} (hx : s.link.outstanding = some x) (hopen : x.response = none)
    (h : DeclinedOrKept s t) (hwhy : x.waitsOrphan = true ∨ t.link = s.link.declined) :
    (linkDrainWaiting t).link = s.link.declined := by
  have hkept (ht : t.link = s.link.declined) : (linkDrainWaiting t).link = s.link.declined := by
    rw [linkDrainWaiting_kept, ht]
    intro y hy
    rw [ht, LinkPort.declined_of_open hx hopen] at hy
    cases hy
    rfl
  obtain h | h := h
  · obtain hwaits | ht := hwhy
    · rw [linkDrainWaiting_link_declined (h ▸ hx) hwaits, h]
    · exact hkept ht
  · exact hkept h

theorem drained_link_kept (h : t.link = s.link)
    (hnone : ∀ x : LinkTransaction, s.link.outstanding = some x → x.waitsOrphan = false) :
    (linkDrainWaiting t).link = s.link := by
  rw [linkDrainWaiting_kept (by rwa [h]), h]

theorem linkDrainWaiting_rest : (linkDrainWaiting s).lines = s.lines ∧ (linkDrainWaiting s).marks = s.marks ∧
    (linkDrainWaiting s).commits = s.commits ∧ (linkDrainWaiting s).pool = s.pool ∧
    (linkDrainWaiting s).registry = s.registry := by
  have hrespond : (respond .notReady [] s).lines = s.lines ∧ (respond .notReady [] s).marks = s.marks ∧
      (respond .notReady [] s).commits = s.commits ∧ (respond .notReady [] s).pool = s.pool ∧
      (respond .notReady [] s).registry = s.registry := by
    unfold respond
    split
    · split <;> exact ⟨rfl, rfl, rfl, rfl, rfl⟩
    · exact ⟨rfl, rfl, rfl, rfl, rfl⟩
  unfold linkDrainWaiting
  split
  · split
    · exact hrespond
    · exact ⟨rfl, rfl, rfl, rfl, rfl⟩
  · exact ⟨rfl, rfl, rfl, rfl, rfl⟩

/-! ### The close of the act (R115, R118) -/

/-- What the writer's turn leaves of the registry, and that it writes what it takes off the dirty entries. -/
structure RegistryKept (r r' : Registry) : Prop where
  held : r'.heldLookups = r.heldLookups
  saved : ∀ e : EntryIx, r'.entries[e].saved = r.entries[e].saved
  inBay : ∀ e : EntryIx, r'.entries[e].inBay = r.entries[e].inBay
  dirty : ∀ e : EntryIx, r.entries[e].dirty = true → r'.entries[e].dirty = true ∨ r'.inFlight e = true

theorem RegistryKept.refl (r : Registry) : RegistryKept r r := ⟨rfl, fun _ => rfl, fun _ => rfl, fun _ => .inl⟩

theorem registryKept_startWrite (r : Registry) (target : WriteTarget) : RegistryKept r (r.startWrite target) := by
  cases target with
  | header => exact ⟨rfl, fun _ => rfl, fun _ => rfl, fun _ => .inl⟩
  | entry e =>
    have hentry (f : EntryIx) : ((r.startWrite (.entry e)).entries[f].saved = r.entries[f].saved ∧
        (r.startWrite (.entry e)).entries[f].inBay = r.entries[f].inBay) ∧
        (r.entries[f].dirty = true → (r.startWrite (.entry e)).entries[f].dirty = true ∨
          (r.startWrite (.entry e)).inFlight f = true) := by
      unfold Registry.startWrite Registry.inFlight
      dsimp only
      by_cases hf : f = e
      · subst hf
        rw [upd_self]
        exact ⟨⟨rfl, rfl⟩, fun _ => .inr (beq_self_eq_true f)⟩
      · rw [upd_ne _ _ _ _ hf]
        exact ⟨⟨rfl, rfl⟩, .inl⟩
    exact ⟨rfl, fun f => (hentry f).1.1, fun f => (hentry f).1.2, fun f => (hentry f).2⟩

theorem writerTurn_registryOnly (a : Bool) (s : State) :
    ∃ r : Registry, RegistryKept s.registry r ∧ writerTurn a s = { s with registry := r } := by
  unfold writerTurn
  split
  · split
    · exact ⟨_, registryKept_startWrite _ _, rfl⟩
    · exact ⟨_, .refl _, rfl⟩
  · exact ⟨_, .refl _, rfl⟩

/-- What the close of an act in DRAIN leaves while SUPPLY_FAIL is asserted. -/
structure ClosedFailing (s t : State) : Prop where
  part : t.part = .drain ∨ t.part = .drained
  pins : t.pins = s.pins
  tracker : t.tracker = s.tracker
  lines : t.lines = s.lines
  marks : t.marks = s.marks
  commits : t.commits = s.commits
  link : t.link = s.link
  array : t.array = s.array
  sram : t.sram = s.sram
  fire : t.fire = s.fire
  port : t.port = s.port
  meter : t.meter = s.meter
  pend : t.pool.pend = s.pool.pend
  batch : t.pool.batch = s.pool.batch
  carry : t.pool.carry = s.pool.carry
  registry : RegistryKept s.registry t.registry
  ctx : ∀ b : Bay, t.ctx[b].state = s.ctx[b].state ∧ t.ctx[b].owner = s.ctx[b].owner

theorem finish_closedFailing (hdrain : s.part = .drain) (hfail : s.pins.supplyFail = true) :
    ClosedFailing s (finish s) := by
  obtain ⟨r, hregistry, hturn⟩ := writerTurn_registryOnly false s
  by_cases hdone : (writerTurn false s).part = .drain ∧ (writerTurn false s).saved
  · rw [finish_of_done hdone.1 hdone.2, enterDrained_failing ((congrArg Pins.supplyFail (writerTurn_pins false s)).trans hfail),
      hturn]
    refine { part := .inr (post_part ..), pins := post_pins .., tracker := post_tracker .., lines := post_lines ..
             marks := post_marks .., commits := post_commits .., link := post_link .., array := post_array ..
             sram := post_sram .., fire := post_fire .., port := post_port .., meter := post_meter ..
             pend := post_poolPend .., batch := post_poolBatch .., carry := post_poolCarry .., registry := ?_, ctx := ?_ }
    · rw [post_registry]
      exact hregistry
    · intro b
      rw [post_ctx]
      dsimp only
      rw [updAll_get]
      exact ⟨rfl, rfl⟩
  · rw [finish_of_not_done hdone, hturn]
    exact ⟨.inl hdrain, rfl, rfl, rfl, rfl, rfl, rfl, rfl, rfl, rfl, rfl, rfl, rfl, rfl, rfl, hregistry,
      fun _ => ⟨rfl, rfl⟩⟩

/-! ### A swath end in DRAIN (R52, R53, R128) -/

/-- What a swath end in DRAIN leaves of the bays: their owners, whether they are in admission, and their commits. -/
structure BaysKept (s t : State) : Prop where
  part : t.part = s.part
  ctx : ∀ b : Bay, t.ctx[b].owner = s.ctx[b].owner ∧ t.ctx[b].state.inAdmission = s.ctx[b].state.inAdmission
  commits : ∀ b : Bay, t.commits[b].state = s.commits[b].state ∧ t.commits[b].batchCarry = s.commits[b].batchCarry ∧
    t.commits[b].batchResidue = s.commits[b].batchResidue

theorem BaysKept.trans {u : State} (h : BaysKept s t) (k : BaysKept t u) : BaysKept s u where
  part := k.part.trans h.part
  ctx := fun b => ⟨(k.ctx b).1.trans (h.ctx b).1, (k.ctx b).2.trans (h.ctx b).2⟩
  commits := fun b => by
    obtain ⟨hstate, hcarry, hresidue⟩ := k.commits b
    rw [hstate, hcarry, hresidue]
    exact h.commits b

theorem baysKept_of_eq (hpart : t.part = s.part) (hctx : t.ctx = s.ctx) (hcommits : t.commits = s.commits) : BaysKept s t where
  part := hpart
  ctx := fun b => by rw [hctx]; exact ⟨rfl, rfl⟩
  commits := fun b => by rw [hcommits]; exact ⟨rfl, rfl, rfl⟩

theorem BaysKept.refl (s : State) : BaysKept s s := baysKept_of_eq rfl rfl rfl

theorem settled_not_inAdmission {x : BayState} (h : x.settled = true) : x.inAdmission = false := by
  cases x <;> simp_all [BayState.settled, BayState.inAdmission]

theorem baysKept_changeAction (a : Action) : BaysKept s (changeAction b a s) := by
  refine ⟨rfl, fun c => ?_, fun c => ⟨rfl, rfl, rfl⟩⟩
  by_cases hc : c = b
  · subst hc
    refine ⟨(changeAction_keeps_bay a).2, ?_⟩
    unfold changeAction
    rw [modCtx_at]
    split
    · next hsettled =>
      dsimp only
      rw [bayState_not_inAdmission]
      exact (settled_not_inAdmission hsettled).symm
    · split <;> rfl
  · rw [changeAction_ne hc]
    exact ⟨rfl, rfl⟩

theorem baysKept_blockOwned : BaysKept s (blockOwned e s) := by
  unfold blockOwned
  cases s.ownedBay e with
  | none => exact .refl s
  | some c => exact baysKept_changeAction .block

theorem baysKept_drawAllowance (v : Nat) : BaysKept s (drawAllowance b e v s) := by
  by_cases hnone : v = 0 ∨ s.registry.entries[e].saved.held ≠ .limit
  · rw [drawAllowance_of_none hnone]
    exact .refl s
  rw [not_or, not_not] at hnone
  by_cases hleft : v < s.registry.entries[e].saved.allowance ∨ s.registry.entries[e].saved.allowance = 0
  · rw [drawAllowance_of_left hnone.2 (Nat.pos_of_ne_zero hnone.1) hleft]
    exact baysKept_of_eq rfl rfl rfl
  · rw [drawAllowance_of_spent hnone.2 (by omega) (by omega)]
    refine BaysKept.trans ?_ (baysKept_of_eq (post_part ..) (post_ctx ..) (post_commits ..))
    refine BaysKept.trans ?_ baysKept_blockOwned
    exact baysKept_of_eq rfl rfl rfl

theorem baysKept_handover (hdrain : s.part = .drain) : BaysKept s (handover b s) := by
  by_cases hclosed : s.tracker.gate[b] = false ∨ s.tracker.owner[b] = none
  · rw [handover_of_closed hclosed]
    exact .refl s
  rw [not_or, Bool.not_eq_false] at hclosed
  obtain ⟨hgate, howner⟩ := hclosed
  obtain ⟨e, he⟩ := Option.ne_none_iff_exists'.mp howner
  have hplaced (v : Nat) : BaysKept s (if v = 0 then s else placeTally b e s.tracker.number v s) := by
    split
    · exact .refl s
    · rw [placeTally_of_drain hdrain]
      obtain ⟨hctx, -, hcommits, -⟩ := addDebt_rest e v (s.bayOf e) s
      exact baysKept_of_eq (keeps_addDebt s e v (s.bayOf e)).part hctx hcommits
  have hdrawn := (hplaced s.meter.tally[b]).trans (baysKept_drawAllowance (b := b) (e := e) s.meter.tally[b])
  have hnotReady {t : State} (h : BaysKept s t) : t.part ≠ .ready := by
    rw [h.part, hdrain]
    decide
  have hhanded : BaysKept s (handed b e s) := by
    unfold handed
    dsimp only
    rw [judge_of_not_ready b (hnotReady hdrawn)]
    exact hdrawn
  rw [handover_of_open hgate he]
  cases (handed b e s).ownedBay e with
  | none => exact hhanded
  | some c =>
    rw [Option.elim_some, judge_of_not_ready c (hnotReady hhanded)]
    exact hhanded

theorem baysKept_swathForcedEnd (hdrain : s.part = .drain) : BaysKept s (swathForcedEnd s) := by
  by_cases hopen : s.tracker.state = .openSwath
  · have hshut : BaysKept s (swathEnd s) := by
      have hhand : BaysKept s (forBays handover { s with tracker := { s.tracker with limit := .stopped } }) :=
        forBays_preserves (P := BaysKept s) (baysKept_of_eq rfl rfl rfl) fun b t ht =>
          ht.trans (baysKept_handover (ht.part.trans hdrain))
      rw [swathEnd_eq]
      dsimp only
      generalize forBays handover { s with tracker := { s.tracker with limit := .stopped } } = t at hhand ⊢
      rw [forBays_same fun b => judge_of_not_ready b (by dsimp only; rw [hhand.part, hdrain]; decide)]
      refine hhand.trans ⟨rfl, fun _ => ⟨rfl, rfl⟩, fun b => ?_⟩
      dsimp only
      rw [updAll_get]
      exact ⟨rfl, rfl, rfl⟩
    rw [swathForcedEnd, if_pos hopen, swathEndTo]
    dsimp only
    generalize swathEnd s = t at hshut ⊢
    exact hshut.trans (baysKept_of_eq rfl rfl rfl)
  · rw [swathForcedEnd_of_not_open hopen]
    exact .refl s

end

end Sys2Proof.Machine
end

section
/-! SUPPORT. SUPPLY_FAIL in READY: the entry to DRAIN from its swath end to the close of the act (R20, R27, R57, R77, R79,
R97, R101, R115, R136, R153, R172). -/

namespace Sys2Proof.Machine

/-! ### The swath end that the entry begins with -/

/-- The entry's opening piece: the part is in DRAIN, and an open swath has ended. -/
def drainShut (s : State) : State := swathForcedEnd { s with part := .drain }

section
variable {b : Bay} {s t : State}

theorem drainShut_part : (drainShut s).part = .drain := swathForcedEnd_part { s with part := .drain }

theorem drainShut_lines : (drainShut s).lines = s.lines := by
  unfold drainShut swathForcedEnd
  split
  · exact swathEndTo_side.1
  · rfl

theorem drainShut_link : (drainShut s).link = s.link := by
  unfold drainShut swathForcedEnd
  split
  · exact swathEndTo_side.2.1
  · rfl

theorem drainShut_baysKept : BaysKept { s with part := .drain } (drainShut s) := baysKept_swathForcedEnd rfl

theorem drainShut_of_not_open (h : s.tracker.state ≠ .openSwath) : drainShut s = { s with part := .drain } :=
  swathForcedEnd_of_not_open h

theorem drainShut_tracker (hshut : s.tracker.shutOutside) :
    (drainShut s).tracker.state = (if s.tracker.state = .openSwath then .waitLow else s.tracker.state) ∧
      ∀ b : Bay, (drainShut s).tracker.gate[b] = false ∧ (drainShut s).tracker.owner[b] = none := by
  by_cases hopen : s.tracker.state = .openSwath
  · rw [drainShut, swathForcedEnd, if_pos hopen, swathEndTo_tracker, if_pos hopen]
    exact ⟨rfl, fun b => ⟨get_replicate .., get_replicate ..⟩⟩
  · rw [drainShut_of_not_open hopen, if_neg hopen]
    exact ⟨rfl, hshut hopen⟩

theorem drainShut_fields : (drainShut s).meter = s.meter ∧ (drainShut s).fire = s.fire ∧ (drainShut s).port = s.port ∧
    (drainShut s).sram = s.sram ∧ (drainShut s).array = s.array ∧ (drainShut s).pins = s.pins := by
  unfold drainShut swathForcedEnd
  split
  · obtain ⟨hmeter, hfire, hport, hsram, harray, -, hpins⟩ :=
      swathEndTo_fields (next := .waitLow) (s := { s with part := .drain })
    exact ⟨hmeter, hfire, hport, hsram, harray, hpins⟩
  · exact ⟨rfl, rfl, rfl, rfl, rfl, rfl⟩

/-! ### The last pieces of the act -/

theorem forBays_drainBay_drain (hdrain : s.part = .drain) : (forBays drainBay s).part = .drain :=
  (keeps_forBays s drainBay fun b t => keeps_drainBay t b).part.trans hdrain

/-- What the act's last pieces leave of the bays, and that every in-bay entry is dirty or being written. -/
structure DrainClosed (s t : State) : Prop where
  lines : t.lines = s.lines
  marks : t.marks = s.marks
  commits : t.commits = s.commits
  pend : t.pool.pend = s.pool.pend
  batch : t.pool.batch = s.pool.batch
  carry : t.pool.carry = s.pool.carry
  held : t.registry.heldLookups = s.registry.heldLookups
  saved : ∀ e : EntryIx, t.registry.entries[e].saved = s.registry.entries[e].saved
  ctx : ∀ b : Bay, t.ctx[b].state = s.ctx[b].state ∧ t.ctx[b].owner = s.ctx[b].owner
  written : ∀ e : EntryIx, t.registry.entries[e].inBay ≠ none →
    t.registry.entries[e].dirty = true ∨ t.registry.inFlight e = true

theorem dirtyInBay_rest : (dirtyInBay s).lines = s.lines ∧ (dirtyInBay s).marks = s.marks ∧
    (dirtyInBay s).commits = s.commits ∧ (dirtyInBay s).pool = s.pool ∧ (dirtyInBay s).link = s.link ∧
    (dirtyInBay s).registry.heldLookups = s.registry.heldLookups := by
  unfold dirtyInBay
  exact ⟨rfl, rfl, rfl, rfl, rfl, rfl⟩

theorem drainClosed_of_closedFailing (h : ClosedFailing (linkDrainWaiting (dirtyInBay s)) t) : DrainClosed s t := by
  obtain ⟨hlines, hmarks, hcommits, hpool, hregistry⟩ := linkDrainWaiting_rest (s := dirtyInBay s)
  obtain ⟨hlines', hmarks', hcommits', hpool', -, hheld⟩ := dirtyInBay_rest (s := s)
  have hctx := linkDrainWaiting_ctx (dirtyInBay s)
  rw [dirtyInBay_ctx] at hctx
  rw [hlines'] at hlines
  rw [hmarks'] at hmarks
  rw [hcommits'] at hcommits
  rw [hpool'] at hpool
  have hentry (e : EntryIx) : (linkDrainWaiting (dirtyInBay s)).registry.entries[e] =
      if s.registry.entries[e].inBay.isSome then { s.registry.entries[e] with dirty := true }
      else s.registry.entries[e] := by
    rw [hregistry]
    unfold dirtyInBay
    dsimp only
    rw [updAll_get]
  rw [← hregistry] at hheld
  generalize linkDrainWaiting (dirtyInBay s) = u at *
  refine { lines := h.lines.trans hlines, marks := h.marks.trans hmarks, commits := h.commits.trans hcommits
           pend := ?_, batch := ?_, carry := ?_, held := ?_, saved := ?_, ctx := ?_, written := ?_ }
  · rw [h.pend, hpool]
  · rw [h.batch, hpool]
  · rw [h.carry, hpool]
  · rw [h.registry.held, hheld]
  · intro e
    rw [h.registry.saved, hentry]
    split <;> rfl
  · intro b
    rw [(h.ctx b).1, (h.ctx b).2, hctx]
    exact ⟨rfl, rfl⟩
  · intro e hin
    refine h.registry.dirty e ?_
    rw [h.registry.inBay, hentry] at hin
    rw [hentry]
    cases hseat : s.registry.entries[e].inBay with
    | none =>
      rw [hseat] at hin
      exact absurd hseat hin
    | some c => rfl

/-! ### The stages of the entry -/

/-- The entry from `s`: the swath's end `d`, the bays in admission emptied `c`, the claims and the pool settled `k`, and the
close of the act `t`. -/
structure DrainStages (s d c k t : State) : Prop where
  bays : BaysKept { s with part := .drain } d
  lines : d.lines = s.lines
  same : s.tracker.state ≠ .openSwath → d = { s with part := .drain }
  released : ∀ b : Bay, d.ctx[b].state.inAdmission = true → c.ctx[b] = BayContext.reset ∧
    c.lines[b] = d.lines[b].abandon ∧ c.commits[b] = { d.commits[b] with lowPosted := false } ∧
    b ∉ c.registry.heldLookups
  seated : ∀ b : Bay, d.ctx[b].state.inAdmission = false → Apart b d c
  outside : ∀ b : Bay, c.ctx[b].state.inAdmission = false
  settled : ∀ b : Bay, BayDrained b c k
  closed : DrainClosed k t

theorem drainStages (h : DrainClosed (claimsSettled (forBays drainBay (drainShut s))) t) :
    DrainStages s (drainShut s) (forBays drainBay (drainShut s)) (claimsSettled (forBays drainBay (drainShut s))) t where
  bays := drainShut_baysKept
  lines := drainShut_lines
  same := drainShut_of_not_open
  released := fun _ => forBays_drainBay_released
  seated := fun _ => forBays_drainBay_kept
  outside := forBays_drainBay_not_inAdmission _
  settled := fun b => bayDrained_claimsSettled b (forBays_drainBay_drain drainShut_part)
  closed := h

namespace DrainStages
variable {d c k : State} (h : DrainStages s d c k t)
include h

theorem ctx (b : Bay) : t.ctx[b].state = c.ctx[b].state ∧ t.ctx[b].owner = c.ctx[b].owner := by
  rw [(h.closed.ctx b).1, (h.closed.ctx b).2, (h.settled b).ctx]
  exact ⟨rfl, rfl⟩

/-- A bay in admission at the entry is emptied. -/
theorem released_of (hin : s.ctx[b].state.inAdmission = true) : c.ctx[b] = BayContext.reset ∧
    c.lines[b] = d.lines[b].abandon ∧ c.commits[b] = { d.commits[b] with lowPosted := false } ∧
    b ∉ c.registry.heldLookups :=
  h.released b ((h.bays.ctx b).2.trans hin)

/-- A bay not in admission at the entry keeps its seat. -/
theorem seated_of (hout : s.ctx[b].state.inAdmission = false) : Apart b d c :=
  h.seated b ((h.bays.ctx b).2.trans hout)

theorem claims (b : Bay) : t.lines[b].waiting.commit = none ∧ t.lines[b].waiting.mark = none ∧
    t.lines[b].waiting.link = none ∧ t.marks[b].list = [] := by
  rw [h.closed.lines, h.closed.marks, (h.settled b).line, (h.settled b).list]
  exact ⟨rfl, rfl, rfl, rfl⟩

theorem not_inAdmission (b : Bay) : t.ctx[b].state.inAdmission = false := by
  rw [(h.ctx b).1, h.outside b]

theorem folded (b : Bay) (howner : t.ctx[b].owner ≠ none) : t.pool.pend[b] = Queue.empty ∧ t.pool.carry[b] = 0 := by
  rw [(h.ctx b).2] at howner
  rw [h.closed.pend, h.closed.carry]
  exact (h.settled b).folded howner

theorem emptied (hin : s.ctx[b].state.inAdmission = true) :
    t.ctx[b].state = .empty ∧ t.lines[b].state = .idle ∧ b ∉ t.registry.heldLookups := by
  obtain ⟨hctx, hline, -, hheld⟩ := h.released_of hin
  rw [(h.ctx b).1, hctx, h.closed.lines, h.closed.held, (h.settled b).line, hline]
  exact ⟨rfl, rfl, fun hmem => hheld ((h.settled b).held hmem)⟩

theorem kept (hout : s.ctx[b].state.inAdmission = false) : t.lines[b].current = s.lines[b].current ∧
    (s.tracker.state ≠ .openSwath → t.ctx[b].state = s.ctx[b].state) := by
  have hkept := h.seated_of hout
  rw [(h.ctx b).1, hkept.ctx, h.closed.lines, (h.settled b).line, hkept.line, h.lines]
  refine ⟨rfl, fun hopen => ?_⟩
  rw [h.same hopen]

/-! ### The commits -/

theorem commit_kept (hwhy : s.lines[b].waiting.commit = none ∨ s.ctx[b].state.inAdmission = true) :
    t.commits[b].state = s.commits[b].state ∧ t.commits[b].batchCarry = s.commits[b].batchCarry ∧
      t.commits[b].batchResidue = s.commits[b].batchResidue := by
  have hbays := h.bays.commits b
  rw [h.closed.commits]
  cases hin : s.ctx[b].state.inAdmission with
  | true =>
    obtain ⟨-, hline, hcommit, -⟩ := h.released_of hin
    have hnone : c.lines[b].waiting.commit = none := by rw [hline]; rfl
    rw [(h.settled b).runsOn hnone, hcommit]
    exact hbays
  | false =>
    have hkept := h.seated_of hin
    have hnone := hwhy.resolve_right (by rw [hin]; decide)
    rw [(h.settled b).runsOn (by rw [hkept.line, h.lines, hnone]), hkept.commit]
    exact hbays

theorem commit_withdrawn (hcommit : s.lines[b].waiting.commit ≠ none)
    (hout : s.ctx[b].state.inAdmission = false) (howner : s.ctx[b].owner ≠ none) :
    t.commits[b].state = .idle ∧ t.commits[b].batchCarry = 0 ∧ t.commits[b].batchResidue = 0 ∧
      t.pool.batch[b] = Queue.empty := by
  have hkept := h.seated_of hout
  obtain ⟨hsettled, hbatch⟩ := (h.settled b).settled (by rwa [hkept.line, h.lines])
    (by rw [hkept.ctx, (h.bays.ctx b).1]; exact howner)
  rw [h.closed.commits, h.closed.batch, hsettled, hbatch]
  exact ⟨rfl, rfl, rfl, rfl⟩

/-! ### The owners' debt -/

theorem saved (hopen : s.tracker.state ≠ .openSwath) (hpool : s.pool.Partitioned) {e : EntryIx}
    (howner : s.ctx[b].owner = some e) (hout : s.ctx[b].state.inAdmission = false)
    (hone : ∀ c : Bay, s.ctx[c].owner = some e → c = b)
    (hle : s.registry.entries[e].saved.debt + (s.pool.pend[b].total + s.pool.carry[b]) +
      (s.pool.batch[b].total + s.commits[b].batchCarry) ≤ Config.volumeMax) :
    (s.lines[b].waiting.commit = none → t.registry.entries[e].saved = { s.registry.entries[e].saved with
      debt := s.registry.entries[e].saved.debt + (s.pool.pend[b].total + s.pool.carry[b]) }) ∧
    (s.lines[b].waiting.commit ≠ none → t.registry.entries[e].saved = { s.registry.entries[e].saved with
      debt := s.registry.entries[e].saved.debt + (s.pool.pend[b].total + s.pool.carry[b]) +
        (s.pool.batch[b].total + s.commits[b].batchCarry)
      residue := s.registry.entries[e].saved.residue + s.commits[b].batchResidue }) := by
  have hkept := h.seated_of hout
  rw [h.same hopen] at hkept
  obtain ⟨hsaved, hother⟩ := hkept.entry e fun c hc howns => hc (hone c howns)
  have howner' : c.ctx[b].owner = some e := by rw [hkept.ctx, howner]
  have hcharged := fun hnone => (h.settled b).charged hnone e howner' hother
  have hreturned := fun hcommit => (h.settled b).returned hcommit (hkept.pool hpool) e howner' hother
  rw [hkept.line, hsaved, hkept.pend, hkept.carry] at hcharged hreturned
  rw [hkept.batch, hkept.commit] at hreturned
  rw [h.closed.saved]
  exact ⟨fun hnone => hcharged hnone (Nat.le_of_add_right_le hle), fun hcommit => hreturned hcommit hle⟩

/-! ### The link port -/

/-- The link claims that wait once the bays in admission are emptied. -/
theorem waiting_link (b : Bay) : (s.ctx[b].state.inAdmission = false → c.lines[b].waiting.link = s.lines[b].waiting.link) ∧
    (s.ctx[b].state.inAdmission = true → c.lines[b].waiting.link = none) := by
  refine ⟨fun hout => ?_, fun hin => ?_⟩
  · rw [(h.seated_of hout).line, h.lines]
  · obtain ⟨-, hline, -⟩ := h.released_of hin
    rw [hline]
    rfl

end DrainStages

end

end Sys2Proof.Machine
end

section
/-! SUPPORT. The act of SUPPLY_FAIL in READY as a whole, and its statement (R20, R101, R172). -/

namespace Sys2Proof.Machine

section
variable {s t : State}

/-! ### The act's stages from the state with the level set -/

theorem linkDrainWaiting_declinedOrKept : DeclinedOrKept s (linkDrainWaiting s) := by
  by_cases hwaits : ∃ x, s.link.outstanding = some x ∧ x.waitsOrphan = true
  · obtain ⟨x, hx, hwaits⟩ := hwaits
    exact .inr (linkDrainWaiting_link_declined hx hwaits)
  · refine .inl (congrArg State.link (linkDrainWaiting_kept fun x hx => ?_))
    exact Bool.eq_false_iff.mpr fun hwait => hwaits ⟨x, hx, hwait⟩

theorem enterDrain_eq : enterDrain s =
    linkDrainWaiting (dirtyInBay (claimsSettled (forBays drainBay (drainShut s)))) := by
  unfold enterDrain claimsSettled drainShut
  dsimp only

theorem enterDrain_outer : (enterDrain s).outer = (drainShut s).outer := by
  unfold enterDrain
  dsimp only
  exact (keeps_drainRest (drainShut s)).outer

/-- What the entry leaves of the records beside the bays, the registry, the pool and the link port. -/
theorem enterDrain_fields : (enterDrain s).tracker = (drainShut s).tracker ∧ (enterDrain s).pins = s.pins ∧
    (enterDrain s).array = s.array ∧ (enterDrain s).sram = s.sram ∧ (enterDrain s).fire = s.fire ∧
    (enterDrain s).port = s.port ∧ (enterDrain s).meter = s.meter := by
  have houter := enterDrain_outer (s := s)
  obtain ⟨hmeter, hfire, hport, hsram, harray, hpins⟩ := drainShut_fields (s := s)
  rw [← hmeter, ← hfire, ← hport, ← hsram, ← harray, ← hpins]
  generalize drainShut s = d at houter ⊢
  generalize enterDrain s = u at houter ⊢
  exact ⟨congrArg Outer.tracker houter, congrArg Outer.pins houter, congrArg Outer.array houter,
    congrArg Outer.sram houter, congrArg Outer.fire houter, congrArg Outer.port houter, congrArg Outer.meter houter⟩

theorem enterDrain_stages (h : ClosedFailing (enterDrain s) t) :
    DrainStages s (drainShut s) (forBays drainBay (drainShut s)) (claimsSettled (forBays drainBay (drainShut s))) t := by
  rw [enterDrain_eq] at h
  exact drainStages (drainClosed_of_closedFailing h)

theorem cleared_link : (forBays drainBay (drainShut s)).link = s.link := by
  refine forBays_preserves (P := fun t => t.link = s.link) drainShut_link fun b t ht => ?_
  rw [drainBay_link, ht]

/-! ### The link port over the act -/

section
variable {d c k : State} (h : DrainStages s d c k t)
include h

/-- A transaction that waits for an orphan, or whose claim waits at a bay that keeps its seat, is answered NOT_READY. -/
theorem DrainStages.link_declined (hlink : c.link = s.link) (hdrain : c.part = .drain) (hk : k = claimsSettled c)
    {x : LinkTransaction} (hx : s.link.outstanding = some x) (hopen : x.response = none)
    (hwhy : x.waitsOrphan = true ∨ ∃ b : Bay, s.lines[b].waiting.link ≠ none ∧ s.ctx[b].state.inAdmission = false) :
    (linkDrainWaiting (dirtyInBay k)).link = s.link.declined := by
  have hstands : DeclinedOrKept c k := hk ▸ claimsSettled_declinedOrKept hdrain
  unfold DeclinedOrKept at hstands
  rw [hlink] at hstands
  obtain ⟨-, -, -, -, hdirty, -⟩ := dirtyInBay_rest (s := k)
  refine drained_link_declined (t := dirtyInBay k) hx hopen (by rwa [DeclinedOrKept, hdirty])
    (hwhy.imp_right fun hclaim => ?_)
  obtain ⟨b, hwaits, hout⟩ := hclaim
  rw [hdirty, hk, claimsSettled_link_declined (b := b) hdrain (by rwa [(h.waiting_link b).1 hout]), hlink]

/-- With no such transaction the link port stands as it was. -/
theorem DrainStages.link_kept (hlink : c.link = s.link) (hdrain : c.part = .drain) (hk : k = claimsSettled c)
    (hnone : ∀ x : LinkTransaction, s.link.outstanding = some x → x.response = none →
      x.waitsOrphan = false ∧ ∀ b : Bay, s.lines[b].waiting.link = none) :
    (linkDrainWaiting (dirtyInBay k)).link = s.link := by
  obtain ⟨-, -, -, -, hdirty, -⟩ := dirtyInBay_rest (s := k)
  by_cases hopen : ∃ x, s.link.outstanding = some x ∧ x.response = none
  · obtain ⟨x, hx, hresponse⟩ := hopen
    obtain ⟨hwaits, hclaims⟩ := hnone x hx hresponse
    have hwaiting (b : Bay) : c.lines[b].waiting.link = none := by
      cases hin : s.ctx[b].state.inAdmission with
      | true => exact (h.waiting_link b).2 hin
      | false => rw [(h.waiting_link b).1 hin, hclaims]
    refine drained_link_kept (t := dirtyInBay k) ?_ fun y hy => ?_
    · rw [hdirty, hk, claimsSettled_link_kept hdrain hwaiting, hlink]
    · cases hx.symm.trans hy
      exact hwaits
  · have hsame : s.link.declined = s.link :=
      LinkPort.declined_of_answered fun x hx hresponse => hopen ⟨x, hx, hresponse⟩
    have hstands : DeclinedOrKept c k := hk ▸ claimsSettled_declinedOrKept hdrain
    have hlast : DeclinedOrKept (dirtyInBay k) (linkDrainWaiting (dirtyInBay k)) := linkDrainWaiting_declinedOrKept
    unfold DeclinedOrKept at hstands hlast
    rw [hlink, hsame, or_self] at hstands
    rwa [hdirty, hstands, hsame, or_self] at hlast

end

end

/-- The state in which the entry to DRAIN begins. -/
def failing (s : State) : State := s.modPins fun p => { p with supplyFail := true }

theorem exec_supplyFailAsserted {s : State} (hpow : s.powered = true) (hready : s.part = .ready) :
    exec .supplyFailAsserted s = .next (finish (enterDrain (failing s))) := by
  have hexec : exec .supplyFailAsserted s = .next (supplyFails (failing s)) := exec_of_powered (by decide) rfl hpow
  have hfails : supplyFails (failing s) = finish (enterDrain (failing s)) := if_pos hready
  rw [hexec, hfails]

/-- The act's outcome, by its stages, its close, its swath and its link port. -/
theorem supplyFail_outcome (s : State) : ∃ d c k,
    DrainStages (failing s) d c k (finish (enterDrain (failing s))) ∧
      ClosedFailing (enterDrain (failing s)) (finish (enterDrain (failing s))) ∧
      (∀ x : LinkTransaction, s.link.outstanding = some x → x.response = none →
        x.waitsOrphan = true ∨ (∃ b : Bay, s.lines[b].waiting.link ≠ none ∧ s.ctx[b].state.inAdmission = false) →
        (enterDrain (failing s)).link = s.link.declined) ∧
      ((∀ x : LinkTransaction, s.link.outstanding = some x → x.response = none →
          x.waitsOrphan = false ∧ ∀ b : Bay, s.lines[b].waiting.link = none) →
        (enterDrain (failing s)).link = s.link) := by
  have hpins : (enterDrain (failing s)).pins = (failing s).pins := enterDrain_fields.2.1
  have hclosed : ClosedFailing (enterDrain (failing s)) (finish (enterDrain (failing s))) :=
    finish_closedFailing (enterDrain_part _) (by rw [hpins]; rfl)
  have h := enterDrain_stages hclosed
  refine ⟨_, _, _, h, hclosed, fun x hx hresponse hwhy => ?_, fun hnone => ?_⟩
  · rw [enterDrain_eq]
    exact h.link_declined cleared_link (forBays_drainBay_drain drainShut_part) rfl hx hresponse hwhy
  · rw [enterDrain_eq]
    exact h.link_kept cleared_link (forBays_drainBay_drain drainShut_part) rfl hnone

/-- Settles O11: the entry's pieces in their order, each by what it leaves of a bay. -/
theorem supplyFailInReadyEntersDrain : Obligations.SupplyFailInReadyEntersDrain := by
  unfold Obligations.SupplyFailInReadyEntersDrain
  intro s hpow hready hshut
  obtain ⟨htracker, hpins, harray, hsram, hfire, hport, hmeter⟩ := enterDrain_fields (s := failing s)
  obtain ⟨hstate, hgates⟩ := drainShut_tracker (s := failing s) hshut
  rw [← htracker] at hstate hgates
  obtain ⟨d, c, k, h, hclosed, hdeclined, hlinkKept⟩ := supplyFail_outcome s
  refine ⟨finish (enterDrain (failing s)), exec_supplyFailAsserted hpow hready, ?_⟩
  generalize finish (enterDrain (failing s)) = t at h hclosed ⊢
  generalize enterDrain (failing s) = u at *
  refine ⟨hclosed.pins.trans hpins, hclosed.part, by rw [hclosed.tracker]; exact hstate, fun b => ?_, h.closed.written,
    hclosed.array.trans harray, hclosed.sram.trans hsram, hclosed.fire.trans hfire, hclosed.port.trans hport,
    hclosed.meter.trans hmeter, fun b => ⟨h.commit_kept, h.commit_withdrawn⟩,
    fun hopen hpool b e howner hout hone => h.saved hopen hpool howner hout hone, fun x hx hresponse hwhy => ?_,
    fun hnone => hclosed.link.trans (hlinkKept hnone)⟩
  · obtain ⟨hgate, howner⟩ := hgates b
    obtain ⟨hcommit, hmark, hlink, hlist⟩ := h.claims b
    rw [hclosed.tracker]
    exact ⟨hgate, howner, hcommit, hmark, hlink, hlist, h.not_inAdmission b, h.emptied, h.kept, h.folded b⟩
  · rw [hclosed.link, hdeclined x hx hresponse hwhy]
    exact LinkPort.declined_of_open hx hresponse

end Sys2Proof.Machine
end
